-- ==== Sys2Proof/Word.lean ====
section
/-! DEFINITION. The plain types every layer shares: bytes and words, the direction of a bus access, a command
packet, the answer of a device call, and an input event as it stands before decoding. -/

namespace Sys2Proof

/-- 8 bits: a task-file register, a byte of a packet, of a result stream or of system memory (R9). -/
abbrev Byte := BitVec 8

/-- 16 bits, the unit of the Data path (R9, R74). -/
abbrev Word := BitVec 16

/-- 32 bits: a bus word, a DMA word or a system-memory byte address (R53, R54, R55). -/
abbrev DWord := BitVec 32

/-- The direction `rw` of a bus access (R70). -/
inductive Dir where
  | read
  | write
  deriving DecidableEq, Repr

/-- Bytes 1 to 11 of a command packet: all but the operation code (R80, R81). -/
structure CdbTail where
  b1 : Byte
  b2 : Byte
  b3 : Byte
  b4 : Byte
  b5 : Byte
  b6 : Byte
  b7 : Byte
  b8 : Byte
  b9 : Byte
  b10 : Byte
  b11 : Byte
  deriving DecidableEq, Repr

/-- A Command Descriptor Block, always 12 bytes: `op` is `cdb[0]`, `tail.bk` is `cdb[k]` (R12, R80). -/
structure Cdb where
  op : Byte
  tail : CdbTail
  deriving DecidableEq, Repr

/-- The answer of `Dev.exec`: a byte count or the error value written -1; the type has nothing else (R56). -/
inductive ExecResult where
  | count (n : Nat)
  | error
  deriving DecidableEq, Repr, Inhabited

/-- An input event before decoding. `bus` is the tuple of R70. `cmd` is a command byte (`CMD v` of R90: the bus
write of register 7 that carries it). `cdb` is a whole packet (`PKT(b0 .. b11)` of the test vectors: the PACKET
command and its six wide writes). `event` is an event without bus encoding: its 2-bit number (R89) and its operand
(an address for DMA_REQ, the input's new value for RESET_LINE, ignored for the two fires). -/
inductive Input where
  | bus (rw : Dir) (offset : Nat) (laneMask : DWord) (value : DWord)
  | cmd (c : Byte)
  | cdb (c : Cdb)
  | event (number : BitVec 2) (operand : DWord)
  deriving DecidableEq, Repr

end Sys2Proof
end

