-- ==== Sys2Proof/Config.lean ====
section
/-! DEFINITION. What the spec leaves to the implementation or to the device. The parameters of R8 that have a default are
the fields of `Params`, held in State, where any value can be supplied (notes/assumptions/19.md). The open parameters
of R8 and the free answers of the device calls are constants without a body, so no proof can see a value of one
(notes/assumptions/5.md and 6.md). The constants of R7 and the defaults stand in Sys2Proof/Machine/Params.lean. -/

namespace Sys2Proof

/-- The parameter MODE_SELECT_LEN: a function from the 12 bytes of a packet to 0 .. 65535, without a constraint (R8).
`parameterListLength` is the default; a `table` lists the packets it maps to something other than 0, so every function
is some table. -/
inductive LengthField where
  | parameterListLength
  | table (entries : List (Cdb × Word))
  deriving DecidableEq, Repr

/-- The parameter LANE_DECODE: a function from a lane mask to the pair (`lo`, `hi`), without a constraint (R8, R70).
`activeHigh` is the default, `activeLow` the complementing one; a `table` lists the masks it maps to something other than
neither half, so every function is some table. -/
inductive LaneDecode where
  | activeHigh
  | activeLow
  | table (entries : List (DWord × (Bool × Bool)))
  deriving DecidableEq, Repr

/-- The parameters of R8 that have a default: "A model takes each as a configuration field" (R8). -/
structure Params where
  /-- ST_BUSY. -/
  stBusy : Byte
  /-- ST_DRIVE_READY. -/
  stDriveReady : Byte
  /-- ST_DMA_READY, never set by the block (R27). -/
  stDmaReady : Byte
  /-- ST_SERVICE_DSC. -/
  stServiceDsc : Byte
  /-- ST_DRQ. -/
  stDrq : Byte
  /-- ST_CORRECTED, never set by the block (R27). -/
  stCorrected : Byte
  /-- ST_CHECK. -/
  stCheck : Byte
  /-- IR_COMMAND. -/
  irCommand : Byte
  /-- IR_IO. -/
  irIo : Byte
  /-- IR_RELEASE, never set by the block (R29). -/
  irRelease : Byte
  /-- CMD_PACKET. -/
  cmdPacket : Byte
  /-- MODE_SELECT_LEN. -/
  modeSelectLen : LengthField
  /-- LANE_DECODE. -/
  laneDecode : LaneDecode
  deriving DecidableEq, Repr

/-- IDENTIFY_BLOCK: word `k`, for `k` from 0 to 255, of the fixed identify block (R8, R85; OPEN, D26). -/
opaque Config.identifyWord : Nat → Word

/-- CYCLES_PER_SECTOR less one. The parameter is a positive integer (R8; OPEN, D21). -/
opaque Config.cyclesPerSectorPred : Nat

/-- CYCLES_PER_SECTOR, at least 1 (R8, R156). -/
def Config.cyclesPerSector : Nat := Config.cyclesPerSectorPred + 1

/-- IRQ_VECTOR, the fixed vector handed to the InterruptSink at every interrupt (R8, R176; OPEN, D30). -/
opaque Config.irqVector : Nat

/-- REG_BASE divided by 16: the base is 16-byte aligned (R8, R52; OPEN, D30). -/
opaque Config.regBlock : BitVec 28

/-- REG_BASE, the bus address of the register block. No rule uses its value (R52). -/
def Config.regBase : DWord := Config.regBlock ++ 0#4

/-- The free answer number `k` of `Dev.exec` to a packet, once the scripted answers are used up (R41, R56). -/
opaque Config.devExec : Nat → Cdb → ExecResult

/-- The free byte number `k` of `Dev.readData`, once the scripted bytes are used up (R41, R57). -/
opaque Config.devByte : Nat → Byte

end Sys2Proof
end

