-- ==== Sys2Proof/Machine/Flags.lean ====
section
/-! DEFINITION. The values and the single-bit operations of CommandStatus and InterruptReason, over the masks ST_* and
IR_* of `Params` (R8, R26, R75, R76). -/

namespace Sys2Proof.Machine

/-- "data ready": ST_DRQ|ST_SERVICE_DSC (R28). -/
def stDataReady (p : Params) : Byte := p.stDrq ||| p.stServiceDsc

/-- "nothing remains": IR_IO|IR_COMMAND (R29). -/
def irDone (p : Params) : Byte := p.irIo ||| p.irCommand

/-- "set CHECK bit", the other status bits kept (R26, R131). -/
def setCheck (p : Params) (st : Byte) : Byte := st ||| p.stCheck

/-- "clear DRQ", the other status bits kept (R26, R133, R144, R146). -/
def clearDrq (p : Params) (st : Byte) : Byte := st &&& ~~~p.stDrq

end Sys2Proof.Machine
end

