-- ==== Sys2Proof/Machine/Params.lean ====
section
/-! DEFINITION. The constants the source fixes (R7), the defaults of the parameters of R8, and the constraint the
spec puts on them. A default the spec marks as general knowledge is PRESUMED here (notes/assumptions/1.md to 4.md). -/

namespace Sys2Proof

/-- MAX_TRANSFER_SIZE: the largest chunk in bytes, 31 sectors (R7). -/
def maxTransferSize : Nat := 63488

/-- SECTOR_SIZE: the largest single device read in bytes (R7). -/
def sectorSize : Nat := 2048

/-- PACKET_WORDS: the 16-bit words that make one CDB (R7). -/
def packetWords : Nat := 6

/-- STAGING_CAPACITY: the capacity of the ReadBackWordBuffer in words (R7). -/
def stagingCapacity : Nat := 32768

/-- IDENTIFY_LEN in words: 512 bytes are 256 words (R7). -/
def identifyWords : Nat := 256

/-- CMD_IDENTIFY_PACKET_DEVICE (R7, R79). -/
def cmdIdentify : Byte := 0xA1

/-- CMD_SET_FEATURES (R7, R79). -/
def cmdSetFeatures : Byte := 0xEF

/-- OP_TEST_UNIT_READY, also called BUS_RESET (R7, R81). -/
def opTestUnitReady : Byte := 0x00

/-- OP_PLAY (R7, R81). -/
def opPlay : Byte := 0x45

/-- OP_MODE_SELECT (R7, R81). -/
def opModeSelect : Byte := 0x55

/-- OP_SET_CDROM_SPEED (R7, R81). -/
def opSetCdromSpeed : Byte := 0xBB

/-- The defaults of R8. PRESUMED: the bit positions (notes/assumptions/1.md), CMD_PACKET (2.md) and MODE_SELECT_LEN
(3.md). DESIGN CHOICE: LANE_DECODE (4.md). -/
def Params.default : Params where
  stBusy := 0x80
  stDriveReady := 0x40
  stDmaReady := 0x20
  stServiceDsc := 0x10
  stDrq := 0x08
  stCorrected := 0x04
  stCheck := 0x01
  irCommand := 0x01
  irIo := 0x02
  irRelease := 0x04
  cmdPacket := 0xA0
  modeSelectLen := .parameterListLength
  laneDecode := .activeHigh

/-- Whether exactly one bit of a mask is set. -/
def isSingleBit (m : Byte) : Bool := m != 0 && m &&& (m - 1) == 0

/-- Whether masks are single bits and pairwise different: no two share a bit (R8). -/
def areDistinctBits : List Byte → Bool
  | [] => true
  | m :: ms => isSingleBit m && ms.all (fun n => m &&& n == 0) && areDistinctBits ms

/-- The seven status masks (R8, R75). -/
def Params.statusMasks (p : Params) : List Byte :=
  [p.stBusy, p.stDriveReady, p.stDmaReady, p.stServiceDsc, p.stDrq, p.stCorrected, p.stCheck]

/-- The three reason masks (R8, R76). -/
def Params.reasonMasks (p : Params) : List Byte := [p.irCommand, p.irIo, p.irRelease]

/-- The constraint on the parameters: the status masks, and the reason masks, are "pairwise different single bits" (R8),
and CMD_PACKET is neither of the two other command bytes (93_implementation_defined.md section 4). -/
def Params.wf (p : Params) : Bool :=
  areDistinctBits p.statusMasks && areDistinctBits p.reasonMasks && p.cmdPacket != cmdIdentify &&
    p.cmdPacket != cmdSetFeatures

/-- ERR_ILLEGAL_REQUEST: what ErrorFeature holds after a device failure (R7, R78). -/
def errIllegalRequest : Byte := 0x50

/-- RESET_ERROR: ErrorFeature after reset (R7, R201). -/
def resetError : Byte := 0x01

/-- RESET_BCL: ByteCountLow after reset (R7, R201). -/
def resetBcl : Byte := 0x14

/-- RESET_BCH: ByteCountHigh after reset (R7, R201). -/
def resetBch : Byte := 0xEB

end Sys2Proof
end

