-- ==== Sys2Proof/Syntax.lean ====
section
/-! DEFINITION. The instructions: one constructor per row of spec/opcode_table.json, in the table's order. An
instruction is one input event, decoded (00_scope.md section 8). -/

namespace Sys2Proof

/-- The 32 rows of the opcode table. `oo` is the word offset a wide or an empty access names and ignores (R71,
R104); a byte or word operand has been cut out of `value32` (R73, R74); `t` is bytes 1 to 11 of a packet (R80). -/
inductive Instr where
  | rdReg0
  | rdReg1
  | rdReg2
  | rdReg3
  | rdReg4
  | rdReg5
  | rdReg6
  | rdReg7
  | wrDl (v : Byte)
  | wrReg1 (v : Byte)
  | wrReg2 (v : Byte)
  | wrReg3 (v : Byte)
  | wrReg4 (v : Byte)
  | wrReg5 (v : Byte)
  | wrReg6 (v : Byte)
  | wrCmd (c : Byte)
  | rdWide (oo : BitVec 2)
  | wrWide (oo : BitVec 2) (w : Word)
  | nopAccess (rw : Dir) (oo : BitVec 2)
  | packet
  | identifyPacketDevice
  | setFeatures
  | cmdUnrecognised (c : Byte)
  | cdbTestUnitReadyBusReset (t : CdbTail)
  | cdbPlay (t : CdbTail)
  | cdbModeSelect (t : CdbTail)
  | cdbSetCdromSpeed (t : CdbTail)
  | cdbGeneric (op : Byte) (t : CdbTail)
  | dmaReq (a : DWord)
  | dmaFire
  | playFire
  | resetLine (v : DWord)
  deriving DecidableEq, Repr

end Sys2Proof
end

