-- ==== Sys2Proof/WellFormed.lean ====
section
/-! DEFINITION. Which instructions are well formed: the two "otherwise" rows of the opcode table must not hold a
value that a specific row names (R91). Which command byte is PACKET's is a parameter (R8). -/

namespace Sys2Proof

/-- The three command bytes with a function (R79). -/
def isRecognisedCommand (p : Params) (c : Byte) : Bool :=
  c == p.cmdPacket || c == cmdIdentify || c == cmdSetFeatures

/-- The four operation codes with a side effect in the block (R81). -/
def isSpecialOpcode (op : Byte) : Bool :=
  op == opTestUnitReady || op == opPlay || op == opModeSelect || op == opSetCdromSpeed

/-- An instruction is well formed when its row is the one its bits select (R79, R81, R91). -/
def Instr.wf (p : Params) : Instr → Bool
  | .cmdUnrecognised c => !isRecognisedCommand p c
  | .cdbGeneric op _ => !isSpecialOpcode op
  | .rdReg0 | .rdReg1 | .rdReg2 | .rdReg3 | .rdReg4 | .rdReg5 | .rdReg6 | .rdReg7 => true
  | .wrDl _ | .wrReg1 _ | .wrReg2 _ | .wrReg3 _ | .wrReg4 _ | .wrReg5 _ | .wrReg6 _ | .wrCmd _ => true
  | .rdWide _ | .wrWide _ _ | .nopAccess _ _ => true
  | .packet | .identifyPacketDevice | .setFeatures => true
  | .cdbTestUnitReadyBusReset _ | .cdbPlay _ | .cdbModeSelect _ | .cdbSetCdromSpeed _ => true
  | .dmaReq _ | .dmaFire | .playFire | .resetLine _ => true

end Sys2Proof
end

