-- ==== Sys2Proof/Decode.lean ====
section
/-! DEFINITION. Decoding an input event into an instruction, total on every input, and the encoder. Decode level 1
is the bus access (R70 to R74, R91), level 2 the command byte (R79), level 3 byte 0 of the packet (R81); events
without bus encoding carry a 2-bit number (R89). -/

namespace Sys2Proof

/-- Why an input has no instruction: the offset of a bus access is not 0 to 3 (R51). -/
inductive DecodeError where
  | offsetOutside (offset : Nat)
  deriving DecidableEq, Repr

/-- LANE_DECODE: which halves of the bus word take part. At its default `lo` when any of mask bits 15:0 is set, `hi` when
any of bits 31:16 is set; an active-low platform complements the mask (R70; notes/assumptions/4.md). -/
def laneDecode : LaneDecode → DWord → Bool × Bool
  | .activeHigh, mask => (mask.extractLsb' 0 16 != 0, mask.extractLsb' 16 16 != 0)
  | .activeLow, mask => (mask.extractLsb' 0 16 != 0xFFFF, mask.extractLsb' 16 16 != 0xFFFF)
  | .table entries, mask => (entries.lookup mask).getD (false, false)

/-- Every bit of the halves that take part. -/
def halvesMask (lo hi : Bool) : DWord :=
  (if hi then 0xFFFF#16 else 0#16) ++ (if lo then 0xFFFF#16 else 0#16)

/-- A lane mask that LANE_DECODE reads as the given halves, if it reads one so (R70). -/
def laneMaskOf (d : LaneDecode) (lo hi : Bool) : DWord :=
  match d with
  | .activeHigh => halvesMask lo hi
  | .activeLow => ~~~halvesMask lo hi
  | .table entries =>
    ((entries.find? fun e => laneDecode (.table entries) e.1 == (lo, hi)).map Prod.fst).getD 0

/-- Whether `laneMaskOf` finds a mask for every pair of halves, so that every bus access has an encoding. -/
def lanesEncodable (d : LaneDecode) : Bool :=
  [(false, false), (true, false), (false, true), (true, true)].all
    (fun h => laneDecode d (laneMaskOf d h.1 h.2) == h)

/-- The selector `w oo h l` of a bus access (R91). -/
def selectorOf (rw : Dir) (oo : BitVec 2) (lo hi : Bool) : BitVec 5 :=
  BitVec.ofBool (rw == .write) ++ oo ++ BitVec.ofBool hi ++ BitVec.ofBool lo

/-- Bit 4 of a selector, `w` (R91). -/
def selectorDir (sel : BitVec 5) : Dir := if sel.getLsbD 4 then .write else .read

/-- Bits 3:2 of a selector, `oo` (R91). -/
def selectorOffset (sel : BitVec 5) : BitVec 2 := sel.extractLsb' 2 2

/-- Bit 1 of a selector, `h` (R91). -/
def selectorHi (sel : BitVec 5) : Bool := sel.getLsbD 1

/-- Bit 0 of a selector, `l` (R91). -/
def selectorLo (sel : BitVec 5) : Bool := sel.getLsbD 0

/-- The register number `2*offset + (hi ? 1 : 0)` of a plain byte access (R72). -/
def regNumber (oo : BitVec 2) (hi : Bool) : BitVec 3 := oo ++ BitVec.ofBool hi

/-- The register byte of a bus word on a byte write: `value32[23:16]` on the high half, `value32[7:0]` on the low
(R73). -/
def laneByte (hi : Bool) (v : DWord) : Byte :=
  if hi then v.extractLsb' 16 8 else v.extractLsb' 0 8

/-- The bus word that carries a byte in the lane of its half, 0 elsewhere (R73, R100). -/
def byteLane (hi : Bool) (b : Byte) : DWord :=
  if hi then b.setWidth 32 <<< 16 else b.setWidth 32

/-- The Data word of a bus word on the wide path, `value32[15:0]` (R74). -/
def wideWord (v : DWord) : Word := v.extractLsb' 0 16

/-- The bus word that carries a Data word, 0 in bits 31:16 (R74). -/
def wideLane (w : Word) : DWord := w.setWidth 32

/-- A plain byte read of register `r` (R72, R100). -/
def decodeByteRead (r : BitVec 3) : Instr :=
  match r.toNat with
  | 0 => .rdReg0
  | 1 => .rdReg1
  | 2 => .rdReg2
  | 3 => .rdReg3
  | 4 => .rdReg4
  | 5 => .rdReg5
  | 6 => .rdReg6
  | _ => .rdReg7

/-- A plain byte write to register `r`; register 7 takes a command (R72, R101 to R103). -/
def decodeByteWrite (r : BitVec 3) (v : Byte) : Instr :=
  match r.toNat with
  | 0 => .wrDl v
  | 1 => .wrReg1 v
  | 2 => .wrReg2 v
  | 3 => .wrReg3 v
  | 4 => .wrReg4 v
  | 5 => .wrReg5 v
  | 6 => .wrReg6 v
  | _ => .wrCmd v

/-- Decode level 1: a selector and the written bus word (R71 to R74, R91). -/
def decodeSelector (sel : BitVec 5) (v : DWord) : Instr :=
  match selectorDir sel, selectorHi sel, selectorLo sel with
  | rw, false, false => .nopAccess rw (selectorOffset sel)
  | .read, true, true => .rdWide (selectorOffset sel)
  | .write, true, true => .wrWide (selectorOffset sel) (wideWord v)
  | .read, hi, _ => decodeByteRead (regNumber (selectorOffset sel) hi)
  | .write, hi, _ => decodeByteWrite (regNumber (selectorOffset sel) hi) (laneByte hi v)

/-- Decode level 2: the command byte, the specific rows first (R79, R91). -/
def decodeCommand (p : Params) (c : Byte) : Instr :=
  if c = p.cmdPacket then .packet
  else if c = cmdIdentify then .identifyPacketDevice
  else if c = cmdSetFeatures then .setFeatures
  else .cmdUnrecognised c

/-- Decode level 3: byte 0 of the packet, the specific rows first (R81, R91). -/
def decodeCdb (c : Cdb) : Instr :=
  if c.op = opTestUnitReady then .cdbTestUnitReadyBusReset c.tail
  else if c.op = opPlay then .cdbPlay c.tail
  else if c.op = opModeSelect then .cdbModeSelect c.tail
  else if c.op = opSetCdromSpeed then .cdbSetCdromSpeed c.tail
  else .cdbGeneric c.op c.tail

/-- An event without bus encoding: 0 DMA_REQ, 1 DMA_FIRE, 2 PLAY_FIRE, 3 RESET_LINE (R89). -/
def decodeEvent (number : BitVec 2) (operand : DWord) : Instr :=
  match number.toNat with
  | 0 => .dmaReq operand
  | 1 => .dmaFire
  | 2 => .playFire
  | _ => .resetLine operand

/-- The instruction an input event is, or why it is none (R51, R70 to R91). -/
def decode (p : Params) : Input → Except DecodeError Instr
  | .bus rw offset mask v =>
    if offset < 4 then
      .ok (decodeSelector
        (selectorOf rw (BitVec.ofNat 2 offset) (laneDecode p.laneDecode mask).1 (laneDecode p.laneDecode mask).2) v)
    else .error (.offsetOutside offset)
  | .cmd c => .ok (decodeCommand p c)
  | .cdb c => .ok (decodeCdb c)
  | .event number operand => .ok (decodeEvent number operand)

/-- The bus access that a selector and a written bus word describe (R70, R91). -/
def busInput (d : LaneDecode) (sel : BitVec 5) (v : DWord) : Input :=
  .bus (selectorDir sel) (selectorOffset sel).toNat (laneMaskOf d (selectorLo sel) (selectorHi sel)) v

/-- The input event of an instruction, from the same tables (R72 to R74, R79, R81, R89, R91). -/
def encode (p : Params) : Instr → Input
  | .rdReg0 => busInput p.laneDecode 0b00001#5 0
  | .rdReg1 => busInput p.laneDecode 0b00010#5 0
  | .rdReg2 => busInput p.laneDecode 0b00101#5 0
  | .rdReg3 => busInput p.laneDecode 0b00110#5 0
  | .rdReg4 => busInput p.laneDecode 0b01001#5 0
  | .rdReg5 => busInput p.laneDecode 0b01010#5 0
  | .rdReg6 => busInput p.laneDecode 0b01101#5 0
  | .rdReg7 => busInput p.laneDecode 0b01110#5 0
  | .wrDl v => busInput p.laneDecode 0b10001#5 (byteLane false v)
  | .wrReg1 v => busInput p.laneDecode 0b10010#5 (byteLane true v)
  | .wrReg2 v => busInput p.laneDecode 0b10101#5 (byteLane false v)
  | .wrReg3 v => busInput p.laneDecode 0b10110#5 (byteLane true v)
  | .wrReg4 v => busInput p.laneDecode 0b11001#5 (byteLane false v)
  | .wrReg5 v => busInput p.laneDecode 0b11010#5 (byteLane true v)
  | .wrReg6 v => busInput p.laneDecode 0b11101#5 (byteLane false v)
  | .wrCmd c => busInput p.laneDecode 0b11110#5 (byteLane true c)
  | .rdWide oo => busInput p.laneDecode (0b0#1 ++ oo ++ 0b11#2) 0
  | .wrWide oo w => busInput p.laneDecode (0b1#1 ++ oo ++ 0b11#2) (wideLane w)
  | .nopAccess .read oo => busInput p.laneDecode (0b0#1 ++ oo ++ 0b00#2) 0
  | .nopAccess .write oo => busInput p.laneDecode (0b1#1 ++ oo ++ 0b00#2) 0
  | .packet => .cmd p.cmdPacket
  | .identifyPacketDevice => .cmd cmdIdentify
  | .setFeatures => .cmd cmdSetFeatures
  | .cmdUnrecognised c => .cmd c
  | .cdbTestUnitReadyBusReset t => .cdb ⟨opTestUnitReady, t⟩
  | .cdbPlay t => .cdb ⟨opPlay, t⟩
  | .cdbModeSelect t => .cdb ⟨opModeSelect, t⟩
  | .cdbSetCdromSpeed t => .cdb ⟨opSetCdromSpeed, t⟩
  | .cdbGeneric op t => .cdb ⟨op, t⟩
  | .dmaReq a => .event 0 a
  | .dmaFire => .event 1 0
  | .playFire => .event 2 0
  | .resetLine v => .event 3 v

/-- Bytes 1 to 11 of a packet when nothing says otherwise: zeros. -/
def zeroTail : CdbTail := ⟨0, 0, 0, 0, 0, 0, 0, 0, 0, 0, 0⟩

/-- The input event that a row's bits of spec/opcode_table.json stand for, every operand bit above them 0. The
table's four formats number their words independently and give no bit that tells them apart, so a row's own width
selects the format where it is told: 2 bits an event number, 5 bits a bus selector. In a whole byte the bus
selectors 0x00 to 0x1F come first, then the named command bytes, then the named operation codes, and any other byte
is a command byte. DESIGN CHOICE: notes/assumptions/10.md. -/
def tableInput (p : Params) (nbits w : Nat) : Option Input :=
  if nbits = 2 then some (.event (BitVec.ofNat 2 w) 0)
  else if nbits = 5 then some (busInput p.laneDecode (BitVec.ofNat 5 w) 0)
  else if nbits = 8 then
    if w < 32 then some (busInput p.laneDecode (BitVec.ofNat 5 w) 0)
    else if isRecognisedCommand p (BitVec.ofNat 8 w) then some (.cmd (BitVec.ofNat 8 w))
    else if isSpecialOpcode (BitVec.ofNat 8 w) then some (.cdb ⟨BitVec.ofNat 8 w, zeroTail⟩)
    else some (.cmd (BitVec.ofNat 8 w))
  else none

/-- The instruction the decoder reads from a row's bits (see `tableInput`), the parameters at their defaults (R8). -/
def decodeTableWord (nbits w : Nat) : Option Instr :=
  match tableInput .default nbits w with
  | none => none
  | some x =>
    match decode .default x with
    | .ok i => some i
    | .error _ => none

end Sys2Proof
end

