-- ==== Sys2Proof/Machine/State.lean ====
section
/-! DEFINITION. The state: everything 10_state.md gives the block (R20 to R39), the system memory it writes (R54),
the output trace of R42, and the inputs of coming steps (R5, R6, R41). INVENTORY.md lists each field with its rule
and its reset value. -/

namespace Sys2Proof.Machine

/-- The eight task-file registers, in the order of their numbers 0 to 7 (R20). -/
inductive TaskReg where
  | dl
  | err
  | ir
  | sc
  | bcl
  | bch
  | ds
  | st
  deriving DecidableEq, Repr

/-- The states of the CommandSequencer (R30). -/
inductive Seq where
  | ready
  | packetBuild
  | modeParamWait
  | dataWait
  | dataPio
  | dataDma
  | complete
  deriving DecidableEq, Repr

/-- A one-shot timer: idle, or pending with its duration in cycles (R37, R38). -/
inductive Timer where
  | idle
  | pending (cycles : Nat)
  deriving DecidableEq, Repr

/-- One scripted answer of the device to a `Dev.exec`: the result, and the result stream that `Dev.readData` then
returns from its start (R56, R57). -/
structure DevAnswer where
  result : ExecResult
  bytes : List Byte
  deriving DecidableEq, Repr

/-- The free inputs of the device calls (R6, R41), the MODEL's own: `answers` to the coming calls of `Dev.exec`, the
`stream` of bytes still to be read of the last result, and how many free answers and free bytes of Config have been
drawn after the script ended (notes/assumptions/6.md). -/
structure Device where
  answers : List DevAnswer
  stream : List Byte
  execDraws : Nat
  byteDraws : Nat
  deriving DecidableEq, Repr

/-- What a step shows to the outside, an observation that no rule reads (R42, R53): an interrupt, a device call with
its arguments, a write to system memory, the bus word a read returns. -/
inductive Output where
  | irq (vector : Nat)
  | exec (cdb : Cdb)
  | readData (n : Nat)
  | writeData (n : Nat) (bytes : List Byte)
  | memWrite (addr : DWord) (v : DWord)
  | busRead (value : DWord)
  deriving DecidableEq, Repr

/-- System memory as far as the block has written it: (address, byte) pairs, addresses strictly rising (R50b, R54;
notes/assumptions/15.md). -/
abbrev Memory := List Host.Cell

/-- The state of the machine. -/
structure State where
  /-- Register 0, the Data byte latch (R21). -/
  dl : Byte
  /-- Register 1, ErrorFeature (R22). -/
  err : Byte
  /-- Register 2, InterruptReason (R23, R29). -/
  ir : Byte
  /-- Register 3, SectorCountTag (R24). -/
  sc : Byte
  /-- Register 4, ByteCountLow (R25). -/
  bcl : Byte
  /-- Register 5, ByteCountHigh (R25). -/
  bch : Byte
  /-- Register 6, DriveSelect (R24). -/
  ds : Byte
  /-- Register 7, CommandStatus, as read (R26, R27). -/
  st : Byte
  /-- The sequencer state (R30). -/
  seq : Seq
  /-- CommandPacketBuffer, `pkt[0..5]` (R32). -/
  pkt : Vector Word 6
  /-- The number of packet words so far (R32). -/
  pktCount : Nat
  /-- The number of parameter words expected (R33). -/
  modeExpect : Nat
  /-- ModeParameterBuffer (R33). -/
  modeBuf : List Word
  /-- What is still to be pulled from the device for the chunk now announced, in bytes (R34). -/
  chunkRemaining : Nat
  /-- What is to be delivered in later chunks, in bytes (R34). -/
  totalRemaining : Nat
  /-- ReadBackWordBuffer: the staged words `rb[0 .. writtenLength-1]` (R35; notes/assumptions/14.md). -/
  rb : List Word
  /-- The number of staged words already handed to the host (R35). -/
  readPointer : Nat
  /-- The byte address of the next DMA word (R36). -/
  dmaDest : DWord
  /-- The DMA timer (R37). -/
  dmaTimer : Timer
  /-- The PLAY timer (R38). -/
  playTimer : Timer
  /-- Whether the reset input was nonzero when last sampled (R39). -/
  resetPrev : Bool
  /-- The parameters of R8 that have a default: configuration, which no rule writes (R41; notes/assumptions/19.md). -/
  params : Params
  /-- System memory as far as written (R54). -/
  mem : Memory
  /-- The output trace, oldest first (R42). -/
  out : List Output
  /-- The device's answers (R6, R41). -/
  dev : Device
  /-- The input events not yet processed, oldest first (R5; notes/assumptions/7.md). -/
  inbox : List Input
  deriving DecidableEq, Repr

/-- `writtenLength`, the number of words staged (R35). -/
def State.writtenLength (s : State) : Nat := s.rb.length

/-- Why a machine stops with a fault. There is no constructor: the block has no fault, "every operation is total and
always returns a value" (R170). Nothing raises it; safe. -/
inductive Fault where
  deriving DecidableEq, Repr

/-- Why a step is refused. The spec itself gives each of these events no meaning (93_implementation_defined.md
section 2), so no claim passes through one. -/
inductive Refusal where
  /-- Raised by an arm of `exec` whose instruction has no meaning yet. Safe: nothing is claimed of it. -/
  | notModelled (mnemonic : String)
  /-- Raised by `step` on a bus access whose offset is not 0 to 3 (R51). Safe: the access never reaches the block. -/
  | offsetOutside (offset : Nat)
  /-- Raised by RD_WIDE in DATA_DMA (R140, R164). Safe: the source states an obligation and no behaviour. -/
  | wideReadDuringDma
  /-- Raised by DMA_REQ in DATA_PIO (R155, R164). Safe: the source states an obligation and no behaviour. -/
  | burstRequestDuringPio
  /-- Raised by DMA_REQ with an address that is not a multiple of 4 (R55). Safe: no rule defines such a write. -/
  | misalignedDestination (a : DWord)
  /-- Raised by DMA_FIRE when `dmaTimer` is idle (R162). Safe: a timer that is not pending cannot fire. -/
  | dmaTimerIdle
  /-- Raised by PLAY_FIRE when `playTimer` is idle (R162). Safe: a timer that is not pending cannot fire. -/
  | playTimerIdle
  deriving DecidableEq, Repr

/-- The machine after construction (R202, R203). The four values the source gives are `err`, `bcl`, `bch` and `st`;
the zeros of the other registers are the spec's (R202). `pkt` is "irrelevant" (R203) and named 0 here (DESIGN
CHOICE, notes/assumptions/13.md). Nothing is placed in the model's own fields. -/
def State.reset : State where
  dl := 0x00
  err := 0x01
  ir := 0x00
  sc := 0x00
  bcl := 0x14
  bch := 0xEB
  ds := 0x00
  st := 0x00
  seq := .ready
  pkt := #v[0, 0, 0, 0, 0, 0]
  pktCount := 0
  modeExpect := 0
  modeBuf := []
  chunkRemaining := 0
  totalRemaining := 0
  rb := []
  readPointer := 0
  dmaDest := 0
  dmaTimer := .idle
  playTimer := .idle
  resetPrev := false
  params := .default
  mem := []
  out := []
  dev := ⟨[], [], 0, 0⟩
  inbox := []

end Sys2Proof.Machine
end

