-- ==== Sys2Proof/Machine/Operands.lean ====
section
/-! DEFINITION. Operand forms: bytes of words and words of bytes (R59 to R61), the packet as words and as bytes
(R60, R80), the fields the block reads of a packet (R82), and the timer durations (R156). -/

namespace Sys2Proof.Machine

/-- `w[7:0]` (R60). -/
def lowByte (w : Word) : Byte := w.extractLsb' 0 8

/-- `w[15:8]` (R60). -/
def highByte (w : Word) : Byte := w.extractLsb' 8 8

/-- The word of two bytes, the first low (R59). -/
def wordOfBytes (lo hi : Byte) : Word := hi ++ lo

/-- The 32-bit word of four bytes, the first lowest (R61). -/
def dwordOfBytes (b0 b1 b2 b3 : Byte) : DWord := b3 ++ b2 ++ b1 ++ b0

/-- The bytes of words, low byte of each first (R60). -/
def bytesOfWords : List Word → List Byte
  | [] => []
  | w :: ws => lowByte w :: highByte w :: bytesOfWords ws

/-- One device read as 16-bit words, first byte low; an odd last byte gets the high byte 0 (R59, R142). -/
def packWords : List Byte → List Word
  | [] => []
  | [b] => [wordOfBytes b 0]
  | b0 :: b1 :: bs => wordOfBytes b0 b1 :: packWords bs

/-- One device read as 32-bit words, first byte lowest; the missing upper bytes of the last are 0 (R61, R157). -/
def packDwords : List Byte → List DWord
  | [] => []
  | [b0] => [dwordOfBytes b0 0 0 0]
  | [b0, b1] => [dwordOfBytes b0 b1 0 0]
  | [b0, b1, b2] => [dwordOfBytes b0 b1 b2 0]
  | b0 :: b1 :: b2 :: b3 :: bs => dwordOfBytes b0 b1 b2 b3 :: packDwords bs

/-- The six packet words as the CDB, low byte of each first (R60, R122). -/
def cdbOfPacket (p : Vector Word 6) : Cdb :=
  ⟨lowByte p[0],
    ⟨highByte p[0], lowByte p[1], highByte p[1], lowByte p[2], highByte p[2], lowByte p[3], highByte p[3],
      lowByte p[4], highByte p[4], lowByte p[5], highByte p[5]⟩⟩

/-- The six packet words that carry a CDB (R80). -/
def packetOfCdb (c : Cdb) : List Word :=
  [wordOfBytes c.op c.tail.b1, wordOfBytes c.tail.b2 c.tail.b3, wordOfBytes c.tail.b4 c.tail.b5,
    wordOfBytes c.tail.b6 c.tail.b7, wordOfBytes c.tail.b8 c.tail.b9, wordOfBytes c.tail.b10 c.tail.b11]

/-- MODE_SELECT_LEN, at its default `cdb[7]*256 + cdb[8]` (R8, R82; notes/assumptions/3.md). -/
def modeSelectLen (f : LengthField) (c : Cdb) : Nat :=
  match f with
  | .parameterListLength => c.tail.b7.toNat * 256 + c.tail.b8.toNat
  | .table entries => ((entries.lookup c).getD 0).toNat

/-- The number of parameter words a MODE SELECT expects, rounded down (R82, R129). -/
def modeSelectWords (f : LengthField) (c : Cdb) : Nat := modeSelectLen f c / 2

/-- `Duration(c)` in cycles: whole sectors only (R156). -/
def burstDuration (c : Nat) : Nat := Config.cyclesPerSector * (c / sectorSize)

/-- The number of device reads that pull `c` bytes, `ceil(c/2048)` (R141, R157). -/
def sectorCount (c : Nat) : Nat := (c + (sectorSize - 1)) / sectorSize

/-- The sizes of those reads: whole sectors, and a short last one for what is left (R141, R157). -/
def sectorSizes (c : Nat) : List Nat :=
  List.replicate (c / sectorSize) sectorSize ++ if c % sectorSize = 0 then [] else [c % sectorSize]

/-- The half of its bus word that carries a register: odd numbers the high half (R72). -/
def TaskReg.inHighHalf : TaskReg → Bool
  | .dl => false
  | .err => true
  | .ir => false
  | .sc => true
  | .bcl => false
  | .bch => true
  | .ds => false
  | .st => true

end Sys2Proof.Machine
end

