-- ==== Sys2Proof/Machine/Ops.lean ====
section
/-! DEFINITION. The shared operations: system memory, registers, outputs and interrupts, the device, the task-file
commands (R110 to R115), packet assembly and dispatch (R120 to R134), the PIO engine (R140 to R148), the DMA engine
and the timers (R155 to R163), and reset (R200, R201). The block has no trap entry and no return (R180, R181): what
stands in their place is `raiseIrq` (R176) and `dispatchFailure`, the one error with a code (R131, R171). -/

namespace Sys2Proof.Machine

/-! ### System memory -/

/-- The byte at an address, or none where the block has written nothing (notes/assumptions/15.md). -/
def Memory.read : Memory → Nat → Option Byte
  | [], _ => none
  | (k, b) :: m, a => if k = a then some b else Memory.read m a

/-- One byte stored at an address, the addresses kept strictly rising. -/
def Memory.write : Memory → Nat → Byte → Memory
  | [], a, b => [(a, b)]
  | (k, c) :: m, a, b =>
    if a < k then (a, b) :: (k, c) :: m
    else if a = k then (a, b) :: m
    else (k, c) :: Memory.write m a b

/-- Whether every address lies above `lo` and the addresses rise strictly. -/
def Memory.wfAbove : Nat → Memory → Bool
  | _, [] => true
  | lo, (k, _) :: m => decide (lo < k) && Memory.wfAbove k m

/-- The canonical form: addresses strictly rising. An unlisted address reads as no value, so no entry can equal
what an unlisted address reads as. -/
def Memory.wf : Memory → Bool
  | [] => true
  | (k, _) :: m => Memory.wfAbove k m

/-- `MemWrite(addr, 4, v)`: the four bytes of `v` in little-endian order (R54). The address is a multiple of 4
wherever the block writes (R55); each byte's address is taken modulo 2^32. -/
def Memory.write32 (m : Memory) (a : DWord) (v : DWord) : Memory :=
  (((m.write a.toNat (v.extractLsb' 0 8)).write (a + 1).toNat (v.extractLsb' 8 8)).write (a + 2).toNat
    (v.extractLsb' 16 8)).write (a + 3).toNat (v.extractLsb' 24 8)

/-! ### Registers, outputs, interrupts -/

/-- `R[i]` (R10, R20). -/
def State.reg (s : State) : TaskReg → Byte
  | .dl => s.dl
  | .err => s.err
  | .ir => s.ir
  | .sc => s.sc
  | .bcl => s.bcl
  | .bch => s.bch
  | .ds => s.ds
  | .st => s.st

/-- `R[i] <- v` (R10, R20). A host write never reaches register 7, which takes commands (R103). -/
def State.setReg (s : State) (r : TaskReg) (v : Byte) : State :=
  match r with
  | .dl => { s with dl := v }
  | .err => { s with err := v }
  | .ir => { s with ir := v }
  | .sc => { s with sc := v }
  | .bcl => { s with bcl := v }
  | .bch => { s with bch := v }
  | .ds => { s with ds := v }
  | .st => { s with st := v }

/-- One more observation at the end of the output trace (R42). -/
def emit (o : Output) (s : State) : State := { s with out := s.out ++ [o] }

/-- `IRQ()`: one call of the InterruptSink with the fixed vector; the block keeps nothing of it (R40, R176). -/
def raiseIrq (s : State) : State := emit (.irq Config.irqVector) s

/-- The bus word a read returns (R53). -/
def returnBus (v : DWord) (s : State) : State := emit (.busRead v) s

/-- A plain byte read: the register in its byte lane, no other effect (R73, R100, R105). -/
def readTaskReg (r : TaskReg) (s : State) : State := returnBus (byteLane r.inHighHalf (s.reg r)) s

/-- `SetByteCount(c)`: `BCL <- c[7:0]; BCH <- c[15:8]` (R10, R77). -/
def setByteCount (c : Nat) (s : State) : State :=
  { s with bcl := BitVec.ofNat 8 c, bch := BitVec.ofNat 8 (c / 256) }

/-! ### The device -/

/-- `Dev.exec(cdb)`: the scripted answer, or a free one (R56; notes/assumptions/6.md). -/
def Device.exec (c : Cdb) (d : Device) : ExecResult × Device :=
  match d.answers with
  | a :: as => (a.result, { d with answers := as, stream := a.bytes })
  | [] => (Config.devExec d.execDraws c, { d with stream := [], execDraws := d.execDraws + 1 })

/-- Byte `k` of what the device will return next: scripted while the script lasts, then free (R57;
notes/assumptions/6.md). -/
def Device.byteAt (d : Device) (k : Nat) : Byte :=
  match d.stream[k]? with
  | some b => b
  | none => Config.devByte (d.byteDraws + (k - d.stream.length))

/-- The next `n` bytes of the result stream: exactly `n` of them (R57). -/
def Device.nextBytes (n : Nat) (d : Device) : List Byte := (List.range n).map d.byteAt

/-- The device once `n` bytes have been read (R57). -/
def Device.advance (n : Nat) (d : Device) : Device :=
  { d with stream := d.stream.drop n, byteDraws := d.byteDraws + (n - d.stream.length) }

/-! ### Clearing -/

/-- What PACKET, IDENTIFY PACKET DEVICE, SET FEATURES and reset clear: the packet counter, the parameter buffer,
TransferState and the staging pointers (R44, R111 to R113, R201). -/
def clearCommandState (s : State) : State :=
  { s with
    pktCount := 0
    modeExpect := 0
    modeBuf := []
    chunkRemaining := 0
    totalRemaining := 0
    rb := []
    readPointer := 0 }

/-- `Reset()` (R201). -/
def softReset (s : State) : State :=
  { clearCommandState s with st := 0x00, err := resetError, bcl := resetBcl, bch := resetBch, seq := .ready }

/-- `reset(value)` on the reset input: only an edge from 0 to nonzero resets (R200). -/
def resetEdge (v : DWord) (s : State) : State :=
  { (if v != 0 && !s.resetPrev then softReset s else s) with resetPrev := v != 0 }

/-! ### Task-file commands -/

/-- PACKET (R111). -/
def packetCommand (s : State) : State :=
  { clearCommandState s with st := s.params.stDrq, ir := s.params.irCommand, seq := .packetBuild }

/-- The identify block, IDENTIFY_LEN words (R85, R112). -/
def identifyBlock : List Word := (List.range identifyWords).map Config.identifyWord

/-- IDENTIFY PACKET DEVICE (R112). -/
def identifyCommand (s : State) : State :=
  { raiseIrq { clearCommandState s with rb := identifyBlock, st := s.params.stDrq, bcl := 0x00, bch := 0x02 } with
    seq := .dataPio }

/-- SET FEATURES (R113). -/
def setFeaturesCommand (s : State) : State :=
  { raiseIrq { clearCommandState s with st := 0x00 } with seq := .ready }

/-- An unrecognised command byte changes nothing (R114, R172). -/
def unrecognisedCommand (s : State) : State := s

/-- `OnCommandWrite(c)`, in every sequencer state (R110, R115). -/
def onCommandWrite (c : Byte) (s : State) : State :=
  if c = s.params.cmdPacket then packetCommand s
  else if c = cmdIdentify then identifyCommand s
  else if c = cmdSetFeatures then setFeaturesCommand s
  else unrecognisedCommand s

/-! ### Packet assembly and dispatch -/

/-- DispatchSuccess, part 1: clip and carry (R123). -/
def seedTransfer (n : Nat) (s : State) : State :=
  { s with chunkRemaining := min n maxTransferSize, totalRemaining := n - min n maxTransferSize }

/-- DispatchSuccess, part 2: the byte count pair, `ST`, `IR`, `seq` and the interrupt (R124). -/
def announceTransfer (s : State) : State :=
  let t := setByteCount s.chunkRemaining s
  raiseIrq (if s.chunkRemaining = 0 then { t with st := s.params.stDriveReady, ir := irDone s.params, seq := .complete }
    else { t with st := stDataReady s.params, ir := s.params.irIo, seq := .dataWait })

/-- Opcode 0x00, TEST UNIT READY / BUS RESET: "forces status=0" (R126). -/
def testUnitReadyEffect (s : State) : State := { s with st := 0x00 }

/-- Opcode 0xBB, SET CD-ROM SPEED: "forces status=0" (R127). -/
def setCdromSpeedEffect (s : State) : State := { s with st := 0x00 }

/-- Opcode 0x45, PLAY: BUSY and a one-sector timer (R128). -/
def playEffect (s : State) : State := { s with st := s.params.stBusy, playTimer := .pending Config.cyclesPerSector }

/-- Opcode 0x55, MODE SELECT: wait for the parameter words, if any are expected (R129). -/
def modeSelectEffect (c : Cdb) (s : State) : State :=
  let m := modeSelectWords s.params.modeSelectLen c
  if 1 ≤ m then { s with modeExpect := m, modeBuf := [], seq := .modeParamWait } else s

/-- `OpcodeSideEffect(cdb)`, selected by `cdb[0]` (R125, R130). -/
def opcodeSideEffect (c : Cdb) (s : State) : State :=
  if c.op = opTestUnitReady then testUnitReadyEffect s
  else if c.op = opPlay then playEffect s
  else if c.op = opModeSelect then modeSelectEffect c s
  else if c.op = opSetCdromSpeed then setCdromSpeedEffect s
  else s

/-- DispatchSuccess (R123 to R125). -/
def dispatchSuccess (n : Nat) (c : Cdb) (s : State) : State :=
  opcodeSideEffect c (announceTransfer (seedTransfer n s))

/-- DispatchFailure, the DeviceExecutionError of R171: no interrupt (R131). -/
def dispatchFailure (s : State) : State :=
  { s with st := setCheck s.params s.st, err := errIllegalRequest, bcl := 0, bch := 0, seq := .complete }

/-- `Dispatch()`: one call of the device with the assembled packet (R122). -/
def dispatch (s : State) : State :=
  let c := cdbOfPacket s.pkt
  let t := emit (.exec c) { s with pktCount := 0, dev := (s.dev.exec c).2 }
  match (s.dev.exec c).1 with
  | .error => dispatchFailure t
  | .count n => dispatchSuccess n c t

/-- `PacketWord(w)`: append, and dispatch on the sixth word (R121). -/
def packetWord (w : Word) (s : State) : State :=
  let t := { s with pkt := s.pkt.setIfInBounds s.pktCount w, pktCount := s.pktCount + 1 }
  if t.pktCount = packetWords then dispatch t else t

/-- `ModeParamComplete()` (R133). -/
def modeParamComplete (s : State) : State :=
  let t := raiseIrq (emit (.writeData (2 * s.modeExpect) (bytesOfWords s.modeBuf)) s)
  { t with
    st := clearDrq s.params s.st
    chunkRemaining := 0
    totalRemaining := 0
    modeExpect := 0
    modeBuf := []
    seq := .ready }

/-- `ModeParamWord(w)`: append, and complete on the last word (R132). -/
def modeParamWord (w : Word) (s : State) : State :=
  let t := { s with modeBuf := s.modeBuf ++ [w] }
  if t.modeBuf.length = t.modeExpect then modeParamComplete t else t

/-- A wide write: a packet word, a parameter word, or ignored (R120, R134). -/
def wideWrite (w : Word) (s : State) : State :=
  match s.seq with
  | .packetBuild => packetWord w s
  | .modeParamWait => modeParamWord w s
  | .ready | .dataWait | .dataPio | .dataDma | .complete => s

/-- A whole packet: the PACKET command and its six wide writes, with no other event between them (R80;
`PKT(b0 .. b11)` of 95_test_vectors.md section 0). DESIGN CHOICE: notes/assumptions/9.md. -/
def sendPacket (c : Cdb) (s : State) : State :=
  (packetOfCdb c).foldl (fun t w => wideWrite w t) (packetCommand s)

/-! ### Refill and the PIO engine -/

/-- `Refill()`: the next chunk of what remains, and the byte count pair (R143). -/
def refill (s : State) : State :=
  let c := min s.totalRemaining maxTransferSize
  setByteCount c { s with chunkRemaining := c, totalRemaining := s.totalRemaining - c }

/-- One `Dev.readData` of the next sector of the chunk: how many bytes it asks for (R57, R141, R157). -/
def sectorBytes (s : State) : Nat := min s.chunkRemaining sectorSize

/-- One `Dev.readData` of the next sector of the chunk: the state after the call (R57, R141, R157). -/
def pullSector (s : State) : State :=
  emit (.readData (sectorBytes s))
    { s with dev := s.dev.advance (sectorBytes s), chunkRemaining := s.chunkRemaining - sectorBytes s }

/-- The staging loop, at most `k` sectors: pull a sector, append its words (R141, R142). -/
def stageSectors : Nat → State → State
  | 0, s => s
  | k + 1, s =>
    if s.chunkRemaining = 0 then s
    else
      stageSectors k
        { pullSector s with rb := s.rb ++ packWords (s.dev.nextBytes (sectorBytes s)) }

/-- `ChunkReady()`, after the refill in staging (R144). -/
def chunkReady (s : State) : State :=
  raiseIrq (if s.chunkRemaining ≠ 0 then { s with st := stDataReady s.params, ir := s.params.irIo }
    else { s with st := clearDrq s.params s.st, ir := irDone s.params })

/-- `Stage()`: the whole chunk from the device into the staging buffer (R141). -/
def stage (s : State) : State :=
  chunkReady (refill (stageSectors (sectorCount s.chunkRemaining) { s with rb := [], readPointer := 0 }))

/-- `FinalCompletion()` (R146). -/
def finalCompletion (s : State) : State :=
  { raiseIrq { s with st := clearDrq s.params s.st, ir := s.params.irIo } with seq := .complete }

/-- The state after a pop: the pointer advances; an emptied buffer returns to 0, and ends the command when no chunk
is announced (R145). -/
def popWord (s : State) : State :=
  if s.readPointer + 1 = s.writtenLength then
    let t := { s with rb := [], readPointer := 0 }
    if s.chunkRemaining = 0 then finalCompletion t else t
  else { s with readPointer := s.readPointer + 1 }

/-- `PioRead()`, first part: stage if the buffer is empty and a chunk is announced (R141, R148). -/
def stageIfEmpty (s : State) : State :=
  if s.readPointer = s.writtenLength ∧ 0 < s.chunkRemaining then stage s else s

/-- `PioRead()`, second part, and the bus word returned: pop a word, or return 0 on an overrun (R145, R147, R148). -/
def popOrZero (s : State) : State :=
  if s.readPointer < s.writtenLength then returnBus (wideLane (s.rb.getD s.readPointer 0)) (popWord s)
  else returnBus 0 s

/-- `PioRead()` (R148). -/
def pioRead (s : State) : State := popOrZero (stageIfEmpty s)

/-- A wide read (R140). -/
def wideRead (s : State) : Host.Outcome State Fault Refusal :=
  match s.seq with
  | .packetBuild | .modeParamWait => .next (returnBus 0 s)
  | .dataDma => .refused .wideReadDuringDma
  | .dataWait => .next (pioRead { s with seq := .dataPio })
  | .ready | .dataPio | .complete => .next (pioRead s)

/-! ### The DMA engine and the timers -/

/-- `DMA_REQ(a)`: latch the address, arm the timer, take the DMA path from DATA_WAIT (R155, R156). -/
def burstRequest (a : DWord) (s : State) : Host.Outcome State Fault Refusal :=
  if s.seq = .dataPio then .refused .burstRequestDuringPio
  else if a.toNat % 4 ≠ 0 then .refused (.misalignedDestination a)
  else .next { s with
    dmaDest := a
    dmaTimer := .pending (burstDuration s.chunkRemaining)
    seq := if s.seq = .dataWait then .dataDma else s.seq }

/-- One `MemWrite` at `dmaDest`, which then advances by 4 modulo 2^32 (R54, R55, R157). -/
def storeDword (v : DWord) (s : State) : State :=
  emit (.memWrite s.dmaDest v) { s with mem := s.mem.write32 s.dmaDest v, dmaDest := s.dmaDest + 4 }

/-- The words of one sector, in ascending order of address (R157, R68). -/
def storeDwords (vs : List DWord) (s : State) : State := vs.foldl (fun t v => storeDword v t) s

/-- The pull-and-write loop of a DMA fire, at most `k` sectors (R157). -/
def burstSectors : Nat → State → State
  | 0, s => s
  | k + 1, s =>
    if s.chunkRemaining = 0 then s
    else burstSectors k (storeDwords (packDwords (s.dev.nextBytes (sectorBytes s))) (pullSector s))

/-- `DmaAfterRefill()`: re-arm for a further chunk, or complete (R159, R160). -/
def dmaAfterRefill (s : State) : State :=
  if s.chunkRemaining ≠ 0 then { s with dmaTimer := .pending (burstDuration s.chunkRemaining) }
  else
    let t := raiseIrq { s with st := s.params.stDriveReady, ir := irDone s.params }
    { t with seq := if s.seq = .dataDma then .complete else s.seq }

/-- The DMA timer fires: the whole chunk moves in this step, whatever `seq` is (R157 to R160, R163). -/
def burst (s : State) : State :=
  dmaAfterRefill (refill (burstSectors (sectorCount s.chunkRemaining) { s with dmaTimer := .idle }))

/-- DMA_FIRE: only a pending timer fires (R157, R162). -/
def dmaTimerFire (s : State) : Host.Outcome State Fault Refusal :=
  match s.dmaTimer with
  | .idle => .refused .dmaTimerIdle
  | .pending _ => .next (burst s)

/-- The PLAY completion (R161). -/
def playComplete (s : State) : State :=
  raiseIrq { s with playTimer := .idle, st := s.params.stDriveReady, ir := irDone s.params }

/-- PLAY_FIRE: only a pending timer fires (R161, R162). -/
def playTimerFire (s : State) : Host.Outcome State Fault Refusal :=
  match s.playTimer with
  | .idle => .refused .playTimerIdle
  | .pending _ => .next (playComplete s)

/-! ### Input events -/

/-- The next input event and the state once it is taken from the queue; none when the queue is empty (R5;
notes/assumptions/7.md). -/
def fetch (s : State) : Option (Input × State) :=
  match s.inbox with
  | [] => none
  | x :: xs => some (x, { s with inbox := xs })

/-- An input event placed as the next one. A fire comes from the scheduled-event queue, which holds armed timers
only (R162), so placing one leaves its timer pending (notes/assumptions/7.md). -/
def place (x : Input) (s : State) : State :=
  let t := { s with inbox := x :: s.inbox }
  match x with
  | .event 1 _ => if t.dmaTimer = .idle then { t with dmaTimer := .pending 0 } else t
  | .event 2 _ => if t.playTimer = .idle then { t with playTimer := .pending 0 } else t
  | _ => t

end Sys2Proof.Machine
end

