-- ==== Sys2Proof/Machine/Events.lean ====
section
/-! DEFINITION. Events that are not bus accesses: DMA_REQ, DMA_FIRE, PLAY_FIRE, RESET_LINE (R155 to R165, R200 to R205). -/

namespace Sys2Proof.Machine

/-- DMA_REQ: a burst request with its destination address (R155). -/
def execDmaReq (a : DWord) (s : State) : Host.Outcome State Fault Refusal := burstRequest a s

/-- DMA_FIRE: the DMA timer fires (R157 to R160, R163). -/
def execDmaFire (s : State) : Host.Outcome State Fault Refusal := dmaTimerFire s

/-- PLAY_FIRE: the PLAY timer fires (R161, R163). -/
def execPlayFire (s : State) : Host.Outcome State Fault Refusal := playTimerFire s

/-- RESET_LINE: the reset input takes the value `v` (R200). -/
def execResetLine (v : DWord) (s : State) : Host.Outcome State Fault Refusal := .next (resetEdge v s)

end Sys2Proof.Machine
end

