-- ==== Sys2Proof/Machine/PacketAssembler.lean ====
section
/-! DEFINITION. Wide writes and whole packets: WR_WIDE, CDB_TEST_UNIT_READY_BUS_RESET, CDB_PLAY, CDB_MODE_SELECT,
CDB_SET_CDROM_SPEED, CDB_GENERIC (R120 to R135). -/

namespace Sys2Proof.Machine

/-- WR_WIDE: a packet word, a parameter word, or ignored; the offset is ignored (R120 to R134). -/
def execWrWide (_oo : BitVec 2) (w : Word) (s : State) : Host.Outcome State Fault Refusal := .next (wideWrite w s)

/-- CDB_TEST_UNIT_READY_BUS_RESET: a packet with operation code 0x00 (R122 to R126, R131). -/
def execCdbTestUnitReadyBusReset (t : CdbTail) (s : State) : Host.Outcome State Fault Refusal :=
  .next (sendPacket ⟨opTestUnitReady, t⟩ s)

/-- CDB_PLAY: a packet with operation code 0x45 (R122 to R125, R128, R131). -/
def execCdbPlay (t : CdbTail) (s : State) : Host.Outcome State Fault Refusal := .next (sendPacket ⟨opPlay, t⟩ s)

/-- CDB_MODE_SELECT: a packet with operation code 0x55 (R122 to R125, R129, R131). -/
def execCdbModeSelect (t : CdbTail) (s : State) : Host.Outcome State Fault Refusal := .next (sendPacket ⟨opModeSelect, t⟩ s)

/-- CDB_SET_CDROM_SPEED: a packet with operation code 0xBB (R122 to R125, R127, R131). -/
def execCdbSetCdromSpeed (t : CdbTail) (s : State) : Host.Outcome State Fault Refusal :=
  .next (sendPacket ⟨opSetCdromSpeed, t⟩ s)

/-- CDB_GENERIC: a packet with any other operation code (R122 to R125, R130, R131). -/
def execCdbGeneric (op : Byte) (t : CdbTail) (s : State) : Host.Outcome State Fault Refusal := .next (sendPacket ⟨op, t⟩ s)

end Sys2Proof.Machine
end

