-- ==== Sys2Proof/Machine/Pio.lean ====
section
/-! DEFINITION. Wide reads: RD_WIDE (R140 to R150). -/

namespace Sys2Proof.Machine

/-- RD_WIDE: a result word, or 0 where there is none; the offset is ignored (R140 to R148). -/
def execRdWide (_oo : BitVec 2) (s : State) : Host.Outcome State Fault Refusal := wideRead s

end Sys2Proof.Machine
end

