-- ==== Sys2Proof/Machine/RegisterAccess.lean ====
section
/-! DEFINITION. The plain byte path and the empty access: RD_REG0 to RD_REG7, WR_DL, WR_REG1 to WR_REG6, WR_CMD,
NOP_ACCESS (R100 to R105). -/

namespace Sys2Proof.Machine

/-- RD_REG0: plain byte read of Data byte latch (R100). -/
def execRdReg0 (s : State) : Host.Outcome State Fault Refusal := .next (readTaskReg .dl s)

/-- RD_REG1: plain byte read of ErrorFeature (R100). -/
def execRdReg1 (s : State) : Host.Outcome State Fault Refusal := .next (readTaskReg .err s)

/-- RD_REG2: plain byte read of InterruptReason (R100). -/
def execRdReg2 (s : State) : Host.Outcome State Fault Refusal := .next (readTaskReg .ir s)

/-- RD_REG3: plain byte read of SectorCountTag (R100). -/
def execRdReg3 (s : State) : Host.Outcome State Fault Refusal := .next (readTaskReg .sc s)

/-- RD_REG4: plain byte read of ByteCountLow (R100). -/
def execRdReg4 (s : State) : Host.Outcome State Fault Refusal := .next (readTaskReg .bcl s)

/-- RD_REG5: plain byte read of ByteCountHigh (R100). -/
def execRdReg5 (s : State) : Host.Outcome State Fault Refusal := .next (readTaskReg .bch s)

/-- RD_REG6: plain byte read of DriveSelect (R100). -/
def execRdReg6 (s : State) : Host.Outcome State Fault Refusal := .next (readTaskReg .ds s)

/-- RD_REG7: plain byte read of CommandStatus (R100, R105). -/
def execRdReg7 (s : State) : Host.Outcome State Fault Refusal := .next (readTaskReg .st s)

/-- WR_DL: plain byte write of the Data byte latch (R102). -/
def execWrDl (v : Byte) (s : State) : Host.Outcome State Fault Refusal := .next (s.setReg .dl v)

/-- WR_REG1: plain byte write of ErrorFeature (R101). -/
def execWrReg1 (v : Byte) (s : State) : Host.Outcome State Fault Refusal := .next (s.setReg .err v)

/-- WR_REG2: plain byte write of InterruptReason (R101). -/
def execWrReg2 (v : Byte) (s : State) : Host.Outcome State Fault Refusal := .next (s.setReg .ir v)

/-- WR_REG3: plain byte write of SectorCountTag (R101). -/
def execWrReg3 (v : Byte) (s : State) : Host.Outcome State Fault Refusal := .next (s.setReg .sc v)

/-- WR_REG4: plain byte write of ByteCountLow (R101). -/
def execWrReg4 (v : Byte) (s : State) : Host.Outcome State Fault Refusal := .next (s.setReg .bcl v)

/-- WR_REG5: plain byte write of ByteCountHigh (R101). -/
def execWrReg5 (v : Byte) (s : State) : Host.Outcome State Fault Refusal := .next (s.setReg .bch v)

/-- WR_REG6: plain byte write of DriveSelect (R101). -/
def execWrReg6 (v : Byte) (s : State) : Host.Outcome State Fault Refusal := .next (s.setReg .ds v)

/-- WR_CMD: the byte written to register 7 goes to the command decoder and is not stored (R103, R26). -/
def execWrCmd (c : Byte) (s : State) : Host.Outcome State Fault Refusal := .next (onCommandWrite c s)

/-- NOP_ACCESS: an empty access; a read returns 0, a write does nothing (R104). The offset is ignored. -/
def execNopAccess (rw : Dir) (_oo : BitVec 2) (s : State) : Host.Outcome State Fault Refusal :=
  match rw with
  | .read => .next (returnBus 0 s)
  | .write => .next s

end Sys2Proof.Machine
end

