-- ==== Sys2Proof/Machine/TaskFile.lean ====
section
/-! DEFINITION. The task-file commands as instructions of their own: PACKET, IDENTIFY_PACKET_DEVICE, SET_FEATURES,
CMD_UNRECOGNISED (R110 to R115). -/

namespace Sys2Proof.Machine

/-- PACKET (R111). -/
def execPacket (s : State) : Host.Outcome State Fault Refusal := .next (packetCommand s)

/-- IDENTIFY_PACKET_DEVICE (R112). -/
def execIdentifyPacketDevice (s : State) : Host.Outcome State Fault Refusal := .next (identifyCommand s)

/-- SET_FEATURES (R113). -/
def execSetFeatures (s : State) : Host.Outcome State Fault Refusal := .next (setFeaturesCommand s)

/-- CMD_UNRECOGNISED: any other command byte; nothing changes (R114, R172). -/
def execCmdUnrecognised (_c : Byte) (s : State) : Host.Outcome State Fault Refusal := .next (unrecognisedCommand s)

end Sys2Proof.Machine
end

