-- ==== Sys2Proof/Machine/Dispatch.lean ====
section
/-! DEFINITION. One arm per constructor of Instr, in the order of spec/opcode_table.json. -/

namespace Sys2Proof.Machine

def exec (i : Instr) (s : State) : Host.Outcome State Fault Refusal :=
  match i with
  | .rdReg0 => Sys2Proof.Machine.execRdReg0 s
  | .rdReg1 => Sys2Proof.Machine.execRdReg1 s
  | .rdReg2 => Sys2Proof.Machine.execRdReg2 s
  | .rdReg3 => Sys2Proof.Machine.execRdReg3 s
  | .rdReg4 => Sys2Proof.Machine.execRdReg4 s
  | .rdReg5 => Sys2Proof.Machine.execRdReg5 s
  | .rdReg6 => Sys2Proof.Machine.execRdReg6 s
  | .rdReg7 => Sys2Proof.Machine.execRdReg7 s
  | .wrDl v => Sys2Proof.Machine.execWrDl v s
  | .wrReg1 v => Sys2Proof.Machine.execWrReg1 v s
  | .wrReg2 v => Sys2Proof.Machine.execWrReg2 v s
  | .wrReg3 v => Sys2Proof.Machine.execWrReg3 v s
  | .wrReg4 v => Sys2Proof.Machine.execWrReg4 v s
  | .wrReg5 v => Sys2Proof.Machine.execWrReg5 v s
  | .wrReg6 v => Sys2Proof.Machine.execWrReg6 v s
  | .wrCmd c => Sys2Proof.Machine.execWrCmd c s
  | .rdWide oo => Sys2Proof.Machine.execRdWide oo s
  | .wrWide oo w => Sys2Proof.Machine.execWrWide oo w s
  | .nopAccess rw oo => Sys2Proof.Machine.execNopAccess rw oo s
  | .packet => Sys2Proof.Machine.execPacket s
  | .identifyPacketDevice => Sys2Proof.Machine.execIdentifyPacketDevice s
  | .setFeatures => Sys2Proof.Machine.execSetFeatures s
  | .cmdUnrecognised c => Sys2Proof.Machine.execCmdUnrecognised c s
  | .cdbTestUnitReadyBusReset t => Sys2Proof.Machine.execCdbTestUnitReadyBusReset t s
  | .cdbPlay t => Sys2Proof.Machine.execCdbPlay t s
  | .cdbModeSelect t => Sys2Proof.Machine.execCdbModeSelect t s
  | .cdbSetCdromSpeed t => Sys2Proof.Machine.execCdbSetCdromSpeed t s
  | .cdbGeneric op t => Sys2Proof.Machine.execCdbGeneric op t s
  | .dmaReq a => Sys2Proof.Machine.execDmaReq a s
  | .dmaFire => Sys2Proof.Machine.execDmaFire s
  | .playFire => Sys2Proof.Machine.execPlayFire s
  | .resetLine v => Sys2Proof.Machine.execResetLine v s

end Sys2Proof.Machine
end

