-- ==== Sys2Proof/Machine/Step.lean ====
section
/-! DEFINITION. One step: take the next input event, decode it, run it. With no event waiting the block does nothing
(R5, R187; notes/assumptions/7.md). -/

namespace Sys2Proof.Machine

/-- The refusal of an input that decodes to no instruction (R51). -/
def refusalOf : DecodeError → Refusal
  | .offsetOutside offset => .offsetOutside offset

/-- One input event is one atomic step (R5, D34). -/
def step (s : State) : Host.Outcome State Fault Refusal :=
  match fetch s with
  | none => .next s
  | some (x, t) =>
    match decode s.params x with
    | .error e => .refused (refusalOf e)
    | .ok i => exec i t

/-- `s` with the instruction of an opcode-table word placed as its next input event (notes/assumptions/7.md,
10.md). -/
def State.withFetchWord (s : State) (nbits w : Nat) : State :=
  match tableInput s.params nbits w with
  | none => s
  | some x => place x s

end Sys2Proof.Machine
end

