-- ==== Sys2Proof/Safety.lean ====
section
/-! DEFINITION. What holds of the state between any two steps (R33, R35, R43, R55), and how an output trace is
counted (R42, R149, R179). -/

namespace Sys2Proof.Machine

/-- The invariant of R43, with the bounds of R32, R33, R35 and R55, the canonical form of the memory and the constraint on
the parameters (R8). -/
structure Inv (s : State) : Prop where
  /-- R43(a): a chunk is at most MAX_TRANSFER_SIZE. -/
  chunk_le : s.chunkRemaining ≤ 63488
  /-- R43(b): with no chunk announced nothing remains at all. -/
  chunk_zero : s.chunkRemaining = 0 → s.totalRemaining = 0
  /-- R43(c): `writtenLength <= 32768`. -/
  written_le : s.writtenLength ≤ 32768
  /-- R43(c): `readPointer <= writtenLength`. -/
  pointer_le : s.readPointer ≤ s.writtenLength
  /-- R35: an emptied buffer has both pointers at 0. -/
  empty_reset : s.readPointer = s.writtenLength → s.writtenLength = 0
  /-- R43(d): the sixth word dispatches in the same step. -/
  pkt_le : s.pktCount ≤ 5
  /-- R32: outside PACKET_BUILD no packet word is counted. -/
  pkt_zero : s.seq ≠ .packetBuild → s.pktCount = 0
  /-- R43(e): parameter words are expected in MODE_PARAM_WAIT and nowhere else. -/
  mode_iff : s.seq = .modeParamWait ↔ 1 ≤ s.modeExpect
  /-- R43(e): the last parameter word completes in the same step. -/
  mode_len : s.seq = .modeParamWait → s.modeBuf.length < s.modeExpect
  /-- R33: with nothing expected the parameter buffer is empty. -/
  mode_empty : s.modeExpect = 0 → s.modeBuf = []
  /-- R33: at most 32767 parameter words. -/
  mode_max : s.modeExpect ≤ 32767
  /-- R43(f), R124: while a packet is built no transfer is announced and nothing is staged. -/
  build_idle : s.seq = .packetBuild → s.chunkRemaining = 0 ∧ s.totalRemaining = 0 ∧ s.rb = []
  /-- R55: the DMA address is a multiple of 4. -/
  dest_aligned : s.dmaDest.toNat % 4 = 0
  /-- The memory is in its canonical form. -/
  mem_wf : s.mem.wf = true
  /-- R55: every written address has 32 bits. -/
  mem_addr : ∀ c ∈ s.mem, c.1 < 2 ^ 32
  /-- R8: the masks are pairwise different single bits, CMD_PACKET is no other command. -/
  params_wf : s.params.wf = true

/-- The status bits the block never sets: DMA_READY, CORRECTED and those without a name (R27). -/
def unusedStatus (p : Params) : Byte :=
  p.stDmaReady ||| p.stCorrected |||
    ~~~(p.stBusy ||| p.stDriveReady ||| p.stDmaReady ||| p.stServiceDsc ||| p.stDrq ||| p.stCorrected ||| p.stCheck)

/-- The reason bits the block never sets: RELEASE and those without a name (R29). -/
def unusedReason (p : Params) : Byte := p.irRelease ||| ~~~(p.irCommand ||| p.irIo ||| p.irRelease)

/-- Whether an observation is an interrupt (R42, R176). -/
def Output.isIrq : Output → Bool
  | .irq _ => true
  | _ => false

/-- Whether an observation is a device read (R42). -/
def Output.isReadData : Output → Bool
  | .readData _ => true
  | _ => false

/-- Whether an observation is a write to system memory (R42). -/
def Output.isMemWrite : Output → Bool
  | .memWrite _ _ => true
  | _ => false

/-- Whether an observation is a bus word that a read returns (R53). -/
def Output.isBusRead : Output → Bool
  | .busRead _ => true
  | _ => false

/-- The interrupts, device calls and memory writes of a trace, in order: all but the returned bus words (R42). -/
def effects (os : List Output) : List Output := os.filter fun o => !o.isBusRead

/-- How many bytes the device reads of a trace ask for (R57). -/
def bytesRead : List Output → Nat
  | [] => 0
  | .readData n :: os => n + bytesRead os
  | _ :: os => bytesRead os

/-- How many interrupts a trace holds (R42). -/
def irqCount (os : List Output) : Nat := os.countP Output.isIrq

/-- The words a host has read off the wide Data path or the byte path, as bus words, in order (R42, R53). -/
def busWords : List Output → List DWord
  | [] => []
  | .busRead v :: os => v :: busWords os
  | _ :: os => busWords os

/-! ### What the statements expect -/

/-- The block right after PACKET and the six words of a packet, before the dispatch: everything of an earlier
command cleared (R111, R121). -/
def packetSent (c : Cdb) (s : State) : State :=
  { s with
    pkt := #v[c.tail.b1 ++ c.op, c.tail.b3 ++ c.tail.b2, c.tail.b5 ++ c.tail.b4, c.tail.b7 ++ c.tail.b6,
      c.tail.b9 ++ c.tail.b8, c.tail.b11 ++ c.tail.b10]
    pktCount := 0
    modeExpect := 0
    modeBuf := []
    chunkRemaining := 0
    totalRemaining := 0
    rb := []
    readPointer := 0
    st := s.params.stDrq
    ir := s.params.irCommand
    seq := .packetBuild }

/-- The block after a successful dispatch of the packet `c` with byte count `n`, before the side effect of the
operation code (R122 to R124). -/
def dispatched (n : Nat) (c : Cdb) (s : State) : State :=
  { s with
    pktCount := 0
    dev := (s.dev.exec c).2
    chunkRemaining := min n 63488
    totalRemaining := n - min n 63488
    bcl := BitVec.ofNat 8 (min n 63488)
    bch := BitVec.ofNat 8 (min n 63488 / 256)
    st := if n = 0 then s.params.stDriveReady else s.params.stDrq ||| s.params.stServiceDsc
    ir := if n = 0 then s.params.irIo ||| s.params.irCommand else s.params.irIo
    seq := if n = 0 then .complete else .dataWait
    out := s.out ++ [.exec c, .irq Config.irqVector] }

/-- The block after a dispatch of the packet `c` that the device rejects (R122, R131). -/
def rejected (c : Cdb) (s : State) : State :=
  { s with
    pktCount := 0
    dev := (s.dev.exec c).2
    st := s.st ||| s.params.stCheck
    err := 0x50
    bcl := 0x00
    bch := 0x00
    seq := .complete
    out := s.out ++ [.exec c] }

/-- Byte `k` of a result of `c` bytes, 0 past its end (R59, R61). -/
def resultByte (d : Device) (c k : Nat) : Byte := if k < c then d.byteAt k else 0

/-- Word `k` of a result of `c` bytes: byte `2k` low, byte `2k+1` high (R59, R142). -/
def resultWord (d : Device) (c k : Nat) : Word := resultByte d c (2 * k + 1) ++ resultByte d c (2 * k)

/-- The `ceil(c/2)` words of a result of `c` bytes (R141). -/
def resultWords (d : Device) (c : Nat) : List Word := (List.range ((c + 1) / 2)).map (resultWord d c)

/-- 32-bit word `k` of a result of `c` bytes: byte `4k` lowest (R61, R157). -/
def resultDword (d : Device) (c k : Nat) : DWord :=
  resultByte d c (4 * k + 3) ++ resultByte d c (4 * k + 2) ++ resultByte d c (4 * k + 1) ++ resultByte d c (4 * k)

/-- What a DMA fire does for sector `j` of a chunk of `c` bytes stored from `a`: the device read, then its 32-bit words
in ascending order (R157). -/
def sectorTrace (d : Device) (a : DWord) (c j : Nat) : List Output :=
  .readData (min (c - 2048 * j) 2048) ::
    (List.range ((min (c - 2048 * j) 2048 + 3) / 4)).map fun k =>
      .memWrite (a + BitVec.ofNat 32 (2048 * j + 4 * k)) (resultDword d c (512 * j + k))

/-- The block after `Refill()` with `total` bytes still to be delivered (R143). -/
def refilled (total : Nat) (s : State) : State :=
  { s with
    chunkRemaining := min total 63488
    totalRemaining := total - min total 63488
    bcl := BitVec.ofNat 8 (min total 63488)
    bch := BitVec.ofNat 8 (min total 63488 / 256) }

end Sys2Proof.Machine
end

