-- ==== Sys2Proof/Certificates/Slice0/Obligations.lean ====
section
/-! DEFINITION. The statements for the provers. Each docstring names the rules it formalises; the states the
statements expect (`packetSent`, `dispatched`, `rejected`, `refilled`, `resultWords`, …) stand in Sys2Proof/Safety.lean. -/

open Sys2Proof Sys2Proof.Machine

/-! ### Decoding and encoding -/

/-- Every well-formed instruction is what the decoder reads from its encoding (30_encoding.md), whatever the parameters, as
long as LANE_DECODE has a mask for every pair of halves. -/
def Obligations.DecodeInvertsEncode : Prop :=
  ∀ (p : Params) (i : Instr), p.wf = true → lanesEncodable p.laneDecode = true → i.wf p = true →
    decode p (encode p i) = .ok i

/-- The decoder tries the specific rows first, so it answers well-formed instructions only (R79, R81, R91). -/
def Obligations.DecodedInstructionsAreWellFormed : Prop :=
  ∀ (p : Params) (x : Input) (i : Instr), decode p x = .ok i → i.wf p = true

/-- Bus accesses written out in 95_test_vectors.md decode to the events they stand for (R70 to R74, R90), the parameters at
their defaults. The default reading of the lane masks is the model's choice, notes/assumptions/4.md. -/
def Obligations.BusFormsOfTheVectorsDecode : Prop :=
  decode .default (.bus .write 3 0xFFFF0000 0x00A00000) = .ok (.wrCmd 0xA0) ∧
  decode .default (.bus .write 0 0xFFFFFFFF 0x00001055) = .ok (.wrWide 0 0x1055) ∧
  decode .default (.bus .write 2 0xFFFFFFFF 0xABCD0028) = .ok (.wrWide 2 0x0028) ∧
  decode .default (.bus .write 1 0xFFFF0000 0x007F0000) = .ok (.wrReg3 0x7F) ∧
  decode .default (.bus .write 2 0x0000FFFF 0xFFFF1234) = .ok (.wrReg4 0x34) ∧
  decode .default (.bus .read 3 0xFFFF0000 0) = .ok .rdReg7 ∧
  decode .default (.bus .read 2 0x0000FFFF 0) = .ok .rdReg4 ∧
  decode .default (.bus .read 0 0xFFFFFFFF 0) = .ok (.rdWide 0) ∧
  decode .default (.bus .write 3 0 0x00A00000) = .ok (.nopAccess .write 3)

/-- A model takes the offset as a value 0 to 3 and refuses others (R51); every access at such an offset decodes
(R87). -/
def Obligations.OnlyOffsetsZeroToThreeDecode : Prop :=
  ∀ (rw : Dir) (o : Nat) (m v : DWord) (s : State) (xs : List Input),
    (o < 4 → ∃ i, decode s.params (.bus rw o m v) = .ok i) ∧
    (4 ≤ o → s.inbox = .bus rw o m v :: xs → step s = .refused (.offsetOutside o))

/-! ### One step -/

/-- When the next input event decodes, the step runs that instruction on the state without the event (R5). -/
def Obligations.StepRunsTheDecodedInstruction : Prop :=
  ∀ (s : State) (x : Input) (xs : List Input) (i : Instr),
    s.inbox = x :: xs → decode s.params x = .ok i → step s = exec i { s with inbox := xs }

/-- With no event waiting the block does nothing (R187 over the model's queue, notes/assumptions/7.md).
The queue is the model's choice. -/
def Obligations.IdleBlockDoesNothing : Prop :=
  ∀ s : State, s.inbox = [] → step s = .next s

/-! ### Construction and reset -/

/-- The values after construction, and after a later reset caused by an edge of the reset input (R203).
The zeros at construction are the spec's own decision, notes/assumptions/17.md. -/
def Obligations.ResetValuesAreThoseOfTheTable : Prop :=
  (State.reset.dl = 0x00 ∧ State.reset.err = 0x01 ∧ State.reset.ir = 0x00 ∧ State.reset.sc = 0x00 ∧
    State.reset.bcl = 0x14 ∧ State.reset.bch = 0xEB ∧ State.reset.ds = 0x00 ∧ State.reset.st = 0x00 ∧
    State.reset.seq = .ready ∧ State.reset.pktCount = 0 ∧ State.reset.modeExpect = 0 ∧ State.reset.modeBuf = [] ∧
    State.reset.chunkRemaining = 0 ∧ State.reset.totalRemaining = 0 ∧ State.reset.readPointer = 0 ∧
    State.reset.writtenLength = 0 ∧ State.reset.dmaDest = 0 ∧ State.reset.dmaTimer = .idle ∧
    State.reset.playTimer = .idle ∧ State.reset.resetPrev = false) ∧
  ∀ (s : State) (v : DWord), v ≠ 0 → s.resetPrev = false →
    ∃ t, exec (.resetLine v) s = .next t ∧
      t.dl = s.dl ∧ t.err = 0x01 ∧ t.ir = s.ir ∧ t.sc = s.sc ∧ t.bcl = 0x14 ∧ t.bch = 0xEB ∧ t.ds = s.ds ∧
      t.st = 0x00 ∧ t.seq = .ready ∧ t.pktCount = 0 ∧ t.modeExpect = 0 ∧ t.modeBuf = [] ∧ t.chunkRemaining = 0 ∧
      t.totalRemaining = 0 ∧ t.readPointer = 0 ∧ t.writtenLength = 0 ∧ t.dmaDest = s.dmaDest ∧
      t.dmaTimer = s.dmaTimer ∧ t.playTimer = s.playTimer ∧ t.resetPrev = true

/-- RESET_LINE: an edge from zero to nonzero resets, every other change is only sampled; nothing outside the reset
list is written (R200, R201). -/
def Obligations.ResetLineActsOnTheEdgeOnly : Prop :=
  ∀ (s : State) (v : DWord),
    (v ≠ 0 → s.resetPrev = false →
      exec (.resetLine v) s = .next
        { s with
          st := 0x00, err := 0x01, bcl := 0x14, bch := 0xEB, pktCount := 0, modeExpect := 0, modeBuf := [], rb := []
          readPointer := 0, chunkRemaining := 0, totalRemaining := 0, seq := .ready, resetPrev := true }) ∧
    (v ≠ 0 → s.resetPrev = true → exec (.resetLine v) s = .next s) ∧
    (v = 0 → exec (.resetLine v) s = .next { s with resetPrev := false })

/-- Reset is idempotent: a second `Reset()`, or a second edge after a return to zero, leaves the state of the first
(R204). -/
def Obligations.ResetTwiceIsResetOnce : Prop :=
  ∀ (s : State) (v w : DWord), softReset (softReset s) = softReset s ∧
    (v ≠ 0 → w ≠ 0 → s.resetPrev = false →
      ∃ t u, exec (.resetLine v) s = .next t ∧ exec (.resetLine 0) t = .next u ∧ exec (.resetLine w) u = .next t)

/-! ### The plain byte path -/

/-- RD_REG0 to RD_REG7 put the register in its byte lane of the bus word and change nothing else (R100, R105). -/
def Obligations.ByteReadsShowOneRegister : Prop :=
  ∀ s : State,
    exec .rdReg0 s = .next { s with out := s.out ++ [.busRead (s.dl.setWidth 32)] } ∧
    exec .rdReg1 s = .next { s with out := s.out ++ [.busRead (s.err.setWidth 32 <<< 16)] } ∧
    exec .rdReg2 s = .next { s with out := s.out ++ [.busRead (s.ir.setWidth 32)] } ∧
    exec .rdReg3 s = .next { s with out := s.out ++ [.busRead (s.sc.setWidth 32 <<< 16)] } ∧
    exec .rdReg4 s = .next { s with out := s.out ++ [.busRead (s.bcl.setWidth 32)] } ∧
    exec .rdReg5 s = .next { s with out := s.out ++ [.busRead (s.bch.setWidth 32 <<< 16)] } ∧
    exec .rdReg6 s = .next { s with out := s.out ++ [.busRead (s.ds.setWidth 32)] } ∧
    exec .rdReg7 s = .next { s with out := s.out ++ [.busRead (s.st.setWidth 32 <<< 16)] }

/-- WR_DL and WR_REG1 to WR_REG6 store one register and change nothing else (R101, R102). -/
def Obligations.ByteWritesStoreOneRegister : Prop :=
  ∀ (s : State) (v : Byte),
    exec (.wrDl v) s = .next { s with dl := v } ∧
    exec (.wrReg1 v) s = .next { s with err := v } ∧
    exec (.wrReg2 v) s = .next { s with ir := v } ∧
    exec (.wrReg3 v) s = .next { s with sc := v } ∧
    exec (.wrReg4 v) s = .next { s with bcl := v } ∧
    exec (.wrReg5 v) s = .next { s with bch := v } ∧
    exec (.wrReg6 v) s = .next { s with ds := v }

/-- A bus read with exactly one half active: register `2*offset + hi`, in the lane of its half (R72, R73, R100). -/
def Obligations.BusByteReadSelectsByOffsetAndHalf : Prop :=
  ∀ (s : State) (o : Nat) (m v : DWord) (hi : Bool) (xs : List Input),
    o < 4 → laneDecode s.params.laneDecode m = (!hi, hi) → s.inbox = .bus .read o m v :: xs →
    step s = .next { s with
      inbox := xs
      out := s.out ++ [.busRead
        (([s.dl, s.err, s.ir, s.sc, s.bcl, s.bch, s.ds, s.st].getD (2 * o + hi.toNat) 0).setWidth 32 <<<
          (if hi then 16 else 0))] }

/-- A bus write with exactly one half active, to register 0 to 6: the byte of its lane is stored in register
`2*offset + hi`, every other bit of the bus word is ignored and nothing else changes (R72, R73, R101, R102). -/
def Obligations.BusByteWriteStoresItsLane : Prop :=
  ∀ (s : State) (o : Nat) (m v : DWord) (hi : Bool) (xs : List Input),
    o < 4 → laneDecode s.params.laneDecode m = (!hi, hi) → 2 * o + hi.toNat ≠ 7 → s.inbox = .bus .write o m v :: xs →
    ∃ t, step s = .next t ∧
      [t.dl, t.err, t.ir, t.sc, t.bcl, t.bch, t.ds, t.st] =
        [s.dl, s.err, s.ir, s.sc, s.bcl, s.bch, s.ds, s.st].set (2 * o + hi.toNat)
          (if hi then v.extractLsb' 16 8 else v.extractLsb' 0 8) ∧
      { t with
        dl := s.dl, err := s.err, ir := s.ir, sc := s.sc, bcl := s.bcl, bch := s.bch, ds := s.ds, st := s.st } =
        { s with inbox := xs }

/-- An empty access: a read returns 0, a write does nothing, at every offset (R104). -/
def Obligations.EmptyAccessDoesNothing : Prop :=
  ∀ (s : State) (oo : BitVec 2),
    exec (.nopAccess .read oo) s = .next { s with out := s.out ++ [.busRead 0] } ∧
    exec (.nopAccess .write oo) s = .next s

/-! ### Task-file commands -/

/-- PACKET (R111). -/
def Obligations.PacketCommandStartsAPacket : Prop :=
  ∀ s : State, exec .packet s = .next
    { s with
      pktCount := 0, chunkRemaining := 0, totalRemaining := 0, readPointer := 0, rb := [], modeExpect := 0
      modeBuf := [], st := s.params.stDrq, ir := s.params.irCommand, seq := .packetBuild }

/-- IDENTIFY PACKET DEVICE (R112). -/
def Obligations.IdentifyStagesTheIdentifyBlock : Prop :=
  ∀ s : State, exec .identifyPacketDevice s = .next
    { s with
      pktCount := 0, modeExpect := 0, modeBuf := [], chunkRemaining := 0, totalRemaining := 0
      rb := (List.range 256).map Config.identifyWord, readPointer := 0, st := s.params.stDrq, bcl := 0x00, bch := 0x02
      seq := .dataPio, out := s.out ++ [.irq Config.irqVector] }

/-- SET FEATURES (R113). -/
def Obligations.SetFeaturesClearsStatus : Prop :=
  ∀ s : State, exec .setFeatures s = .next
    { s with
      pktCount := 0, modeExpect := 0, modeBuf := [], chunkRemaining := 0, totalRemaining := 0, readPointer := 0
      rb := [], st := 0x00, seq := .ready, out := s.out ++ [.irq Config.irqVector] }

/-- Any command byte other than the three changes nothing, written to register 7 or taken as a command (R114).
The byte of PACKET is a parameter (R8). -/
def Obligations.UnrecognisedCommandChangesNothing : Prop :=
  ∀ (s : State) (c : Byte), c ≠ s.params.cmdPacket → c ≠ 0xA1 → c ≠ 0xEF →
    exec (.cmdUnrecognised c) s = .next s ∧ exec (.wrCmd c) s = .next s

/-- WR_CMD: in every sequencer state the byte is decoded as a command and not stored (R103, R110). -/
def Obligations.CommandWriteRunsItsCommand : Prop :=
  ∀ (s : State) (c : Byte), s.params.wf = true →
    ∃ t, exec (.wrCmd c) s = .next t ∧
      (c = s.params.cmdPacket → exec .packet s = .next t) ∧
      (c = 0xA1 → exec .identifyPacketDevice s = .next t) ∧
      (c = 0xEF → exec .setFeatures s = .next t) ∧
      (c ≠ s.params.cmdPacket → c ≠ 0xA1 → c ≠ 0xEF → t = s)

/-! ### The packet assembler -/

/-- The first five packet words: appended, and nothing else changes (R121). -/
def Obligations.PacketWordsOneToFiveAreAppended : Prop :=
  ∀ (s : State) (oo : BitVec 2) (w : Word) (h : s.pktCount < 5), s.seq = .packetBuild →
    exec (.wrWide oo w) s = .next { s with pkt := s.pkt.set s.pktCount w (by omega), pktCount := s.pktCount + 1 }

/-- The sixth packet word dispatches the twelve bytes of the six words, low byte of each word first; a device that
answers -1 leaves CHECK, ErrorFeature 0x50, a byte count of 0 and raises no interrupt (R121, R122, R131). -/
def Obligations.SixthWordRejectedByTheDevice : Prop :=
  ∀ (s : State) (oo : BitVec 2) (w0 w1 w2 w3 w4 w5 x : Word) (c : Cdb),
    s.seq = .packetBuild → s.pktCount = 5 → s.pkt = #v[w0, w1, w2, w3, w4, x] →
    c = ⟨w0.extractLsb' 0 8,
      ⟨w0.extractLsb' 8 8, w1.extractLsb' 0 8, w1.extractLsb' 8 8, w2.extractLsb' 0 8, w2.extractLsb' 8 8,
        w3.extractLsb' 0 8, w3.extractLsb' 8 8, w4.extractLsb' 0 8, w4.extractLsb' 8 8, w5.extractLsb' 0 8,
        w5.extractLsb' 8 8⟩⟩ →
    (s.dev.exec c).1 = .error →
    exec (.wrWide oo w5) s = .next (rejected c { s with pkt := #v[w0, w1, w2, w3, w4, w5] })

/-- The sixth packet word of any packet but a MODE SELECT, answered with a byte count: TransferState seeded, the pair,
`ST`, `IR`, `seq`, one interrupt, then the side effect of the operation code (R121 to R128, R130). The order of the side
effect and the state DATA_WAIT are the spec's own decisions (D37, D11), notes/assumptions/17.md. MODE SELECT is the next
statement's. -/
def Obligations.SixthWordAcceptedByTheDevice : Prop :=
  ∀ (s : State) (oo : BitVec 2) (w0 w1 w2 w3 w4 w5 x : Word) (c : Cdb) (n : Nat) (t : State),
    s.seq = .packetBuild → s.pktCount = 5 → s.pkt = #v[w0, w1, w2, w3, w4, x] →
    c = ⟨w0.extractLsb' 0 8,
      ⟨w0.extractLsb' 8 8, w1.extractLsb' 0 8, w1.extractLsb' 8 8, w2.extractLsb' 0 8, w2.extractLsb' 8 8,
        w3.extractLsb' 0 8, w3.extractLsb' 8 8, w4.extractLsb' 0 8, w4.extractLsb' 8 8, w5.extractLsb' 0 8,
        w5.extractLsb' 8 8⟩⟩ →
    (s.dev.exec c).1 = .count n →
    t = dispatched n c { s with pkt := #v[w0, w1, w2, w3, w4, w5] } →
    c.op ≠ 0x55 →
    exec (.wrWide oo w5) s = .next
      (if c.op = 0x00 ∨ c.op = 0xBB then { t with st := 0x00 }
       else if c.op = 0x45 then { t with st := s.params.stBusy, playTimer := .pending Config.cyclesPerSector }
       else t)

/-- The sixth packet word of a MODE SELECT, answered with a byte count: as dispatch left it, and a wait for half as many
words as the length field has bytes, if any (R129). The field is the parameter MODE_SELECT_LEN (R8, R82). -/
def Obligations.SixthWordOfAModeSelect : Prop :=
  ∀ (s : State) (oo : BitVec 2) (w0 w1 w2 w3 w4 w5 x : Word) (c : Cdb) (n : Nat) (t : State),
    s.seq = .packetBuild → s.pktCount = 5 → s.pkt = #v[w0, w1, w2, w3, w4, x] →
    c = ⟨w0.extractLsb' 0 8,
      ⟨w0.extractLsb' 8 8, w1.extractLsb' 0 8, w1.extractLsb' 8 8, w2.extractLsb' 0 8, w2.extractLsb' 8 8,
        w3.extractLsb' 0 8, w3.extractLsb' 8 8, w4.extractLsb' 0 8, w4.extractLsb' 8 8, w5.extractLsb' 0 8,
        w5.extractLsb' 8 8⟩⟩ →
    (s.dev.exec c).1 = .count n →
    t = dispatched n c { s with pkt := #v[w0, w1, w2, w3, w4, w5] } →
    c.op = 0x55 →
    exec (.wrWide oo w5) s = .next
      (if 2 ≤ modeSelectLen s.params.modeSelectLen c then
        { t with modeExpect := modeSelectLen s.params.modeSelectLen c / 2, modeBuf := [], seq := .modeParamWait }
       else t)

/-- A packet whose command the device rejects ends the same way whatever its operation code: no side effect applies
(R125, R131).
A packet row as one instruction is the model's choice, notes/assumptions/9.md. -/
def Obligations.RejectedPacketHasNoSideEffect : Prop :=
  ∀ (s : State) (c : Cdb), (s.dev.exec c).1 = .error →
    (c.op = 0x00 → exec (.cdbTestUnitReadyBusReset c.tail) s = .next (rejected c (packetSent c s))) ∧
    (c.op = 0x45 → exec (.cdbPlay c.tail) s = .next (rejected c (packetSent c s))) ∧
    (c.op = 0x55 → exec (.cdbModeSelect c.tail) s = .next (rejected c (packetSent c s))) ∧
    (c.op = 0xBB → exec (.cdbSetCdromSpeed c.tail) s = .next (rejected c (packetSent c s))) ∧
    (c.op ≠ 0x00 → c.op ≠ 0x45 → c.op ≠ 0x55 → c.op ≠ 0xBB →
      exec (.cdbGeneric c.op c.tail) s = .next (rejected c (packetSent c s)))

/-- TEST UNIT READY / BUS RESET and SET CD-ROM SPEED force the status to 0 and leave the rest as dispatch left it
(R126, R127).
A packet row as one instruction is the model's choice, notes/assumptions/9.md. -/
def Obligations.TestUnitReadyAndSpeedForceStatusZero : Prop :=
  ∀ (s : State) (t : CdbTail) (n m : Nat),
    ((s.dev.exec ⟨0x00, t⟩).1 = .count n →
      exec (.cdbTestUnitReadyBusReset t) s =
        .next { dispatched n ⟨0x00, t⟩ (packetSent ⟨0x00, t⟩ s) with st := 0x00 }) ∧
    ((s.dev.exec ⟨0xBB, t⟩).1 = .count m →
      exec (.cdbSetCdromSpeed t) s =
        .next { dispatched m ⟨0xBB, t⟩ (packetSent ⟨0xBB, t⟩ s) with st := 0x00 })

/-- PLAY forces BUSY and arms the one-sector timer; the rest is as dispatch left it (R128).
A packet row as one instruction is the model's choice, notes/assumptions/9.md. -/
def Obligations.PlaySetsBusyAndArmsItsTimer : Prop :=
  ∀ (s : State) (t : CdbTail) (n : Nat), (s.dev.exec ⟨0x45, t⟩).1 = .count n →
    exec (.cdbPlay t) s = .next
      { dispatched n ⟨0x45, t⟩ (packetSent ⟨0x45, t⟩ s) with
        st := s.params.stBusy, playTimer := .pending Config.cyclesPerSector }

/-- MODE SELECT waits for half as many words as its length field has bytes, rounded down; with none to wait for the
state is as dispatch left it (R129). The field is the parameter MODE_SELECT_LEN (R8, R82).
A packet row as one instruction is the model's choice, notes/assumptions/9.md. -/
def Obligations.ModeSelectExpectsItsParameterWords : Prop :=
  ∀ (s : State) (t : CdbTail) (n : Nat), (s.dev.exec ⟨0x55, t⟩).1 = .count n →
    (2 ≤ modeSelectLen s.params.modeSelectLen ⟨0x55, t⟩ →
      exec (.cdbModeSelect t) s = .next
        { dispatched n ⟨0x55, t⟩ (packetSent ⟨0x55, t⟩ s) with
          modeExpect := modeSelectLen s.params.modeSelectLen ⟨0x55, t⟩ / 2, modeBuf := [], seq := .modeParamWait }) ∧
    (modeSelectLen s.params.modeSelectLen ⟨0x55, t⟩ < 2 →
      exec (.cdbModeSelect t) s = .next (dispatched n ⟨0x55, t⟩ (packetSent ⟨0x55, t⟩ s)))

/-- Any other operation code has no side effect: the state is as dispatch left it (R123, R124, R130).
A packet row as one instruction is the model's choice, notes/assumptions/9.md. -/
def Obligations.GenericPacketIsOnlyDispatched : Prop :=
  ∀ (s : State) (c : Cdb) (n : Nat), c.op ≠ 0x00 → c.op ≠ 0x45 → c.op ≠ 0x55 → c.op ≠ 0xBB →
    (s.dev.exec c).1 = .count n →
    exec (.cdbGeneric c.op c.tail) s = .next (dispatched n c (packetSent c s))

/-- A packet row taken as one instruction does exactly what seven bus writes do: the command byte CMD_PACKET to
register 7 and the six words of the packet on the wide path, with any masks `mh` and `mw` that LANE_DECODE reads as the
high half and as both (R70, R80). A packet row as one instruction is the model's choice, notes/assumptions/9.md. -/
def Obligations.PacketInstructionEqualsSevenBusWrites : Prop :=
  ∀ (s : State) (c : Cdb) (mh mw v : DWord) (xs : List Input),
    laneDecode s.params.laneDecode mh = (false, true) → laneDecode s.params.laneDecode mw = (true, true) →
    v.extractLsb' 16 8 = s.params.cmdPacket →
    Sys2Proof.core.run 7
      { s with
        inbox := .bus .write 3 mh v ::
          .bus .write 0 mw (0#16 ++ c.tail.b1 ++ c.op) ::
          .bus .write 0 mw (0#16 ++ c.tail.b3 ++ c.tail.b2) ::
          .bus .write 0 mw (0#16 ++ c.tail.b5 ++ c.tail.b4) ::
          .bus .write 0 mw (0#16 ++ c.tail.b7 ++ c.tail.b6) ::
          .bus .write 0 mw (0#16 ++ c.tail.b9 ++ c.tail.b8) ::
          .bus .write 0 mw (0#16 ++ c.tail.b11 ++ c.tail.b10) :: xs } =
      exec (decodeCdb c) { s with inbox := xs }

/-- A parameter word that is not the last: appended, and nothing else changes (R132). The last one: `writeData` with
the bytes of all the words, low byte first, one interrupt, DRQ cleared, TransferState and the parameter buffer
cleared, READY (R132, R133). -/
def Obligations.ModeParameterWordsEndInWriteData : Prop :=
  ∀ (s : State) (oo : BitVec 2) (w : Word), s.seq = .modeParamWait →
    (s.modeBuf.length + 1 ≠ s.modeExpect →
      exec (.wrWide oo w) s = .next { s with modeBuf := s.modeBuf ++ [w] }) ∧
    (s.modeBuf.length + 1 = s.modeExpect →
      exec (.wrWide oo w) s = .next
        { s with
          st := s.st &&& ~~~s.params.stDrq, chunkRemaining := 0, totalRemaining := 0, modeExpect := 0, modeBuf := []
          seq := .ready
          out := s.out ++
            [.writeData (2 * s.modeExpect)
              ((s.modeBuf ++ [w]).flatMap fun x => [x.extractLsb' 0 8, x.extractLsb' 8 8]),
             .irq Config.irqVector] })

/-- The whole parameter list, word after word: nothing shows before the last word, which hands all the bytes to the
device in one call and ends in READY (R83, R129, R132, R133). The words come with any mask that LANE_DECODE reads as both
halves (R70). -/
def Obligations.WholeParameterListReachesTheDevice : Prop :=
  ∀ (s : State) (m : DWord) (ws : List Word) (xs : List Input),
    laneDecode s.params.laneDecode m = (true, true) → s.seq = .modeParamWait → s.modeBuf = [] →
    ws.length = s.modeExpect → 1 ≤ s.modeExpect →
    s.inbox = ws.map (fun w => .bus .write 0 m (w.setWidth 32)) ++ xs →
    Sys2Proof.core.run s.modeExpect s = .next
      { s with
        st := s.st &&& ~~~s.params.stDrq, chunkRemaining := 0, totalRemaining := 0, modeExpect := 0, modeBuf := []
        seq := .ready, inbox := xs
        out := s.out ++
          [.writeData (2 * s.modeExpect) (ws.flatMap fun x => [x.extractLsb' 0 8, x.extractLsb' 8 8]),
           .irq Config.irqVector] }

/-- A wide write where no words are expected changes nothing (R134). -/
def Obligations.UnexpectedWideWriteIsIgnored : Prop :=
  ∀ (s : State) (oo : BitVec 2) (w : Word), s.seq ≠ .packetBuild → s.seq ≠ .modeParamWait →
    exec (.wrWide oo w) s = .next s

/-! ### The PIO engine -/

/-- `Refill()`: the next chunk of what remains and the byte count pair; nothing is lost, nothing else changes
(R143). -/
def Obligations.RefillConservesTheCount : Prop :=
  ∀ s : State, refill s = refilled s.totalRemaining s ∧
    (refill s).chunkRemaining + (refill s).totalRemaining = s.totalRemaining ∧ (refill s).chunkRemaining ≤ 63488

/-- RD_WIDE by sequencer state: 0 and no effect in PACKET_BUILD and MODE_PARAM_WAIT, refused in DATA_DMA, `PioRead()` in
READY, DATA_PIO and COMPLETE, and in DATA_WAIT exactly as in DATA_PIO (R140). -/
def Obligations.WideReadFollowsTheSequencer : Prop :=
  ∀ (s : State) (oo : BitVec 2),
    (s.seq = .packetBuild ∨ s.seq = .modeParamWait →
      exec (.rdWide oo) s = .next { s with out := s.out ++ [.busRead 0] }) ∧
    (s.seq = .dataDma → exec (.rdWide oo) s = .refused .wideReadDuringDma) ∧
    (s.seq = .dataWait → exec (.rdWide oo) s = exec (.rdWide oo) { s with seq := .dataPio }) ∧
    (s.seq = .ready ∨ s.seq = .dataPio ∨ s.seq = .complete → exec (.rdWide oo) s = .next (pioRead s)) ∧
    (s.seq ≠ .dataDma → ∃ t, exec (.rdWide oo) s = .next t)

/-- Overrun: with an empty buffer and no chunk announced a wide read returns 0 without side effects; only DATA_WAIT
becomes DATA_PIO (R147). -/
def Obligations.OverrunReadReturnsZero : Prop :=
  ∀ (s : State) (oo : BitVec 2),
    s.seq ≠ .packetBuild → s.seq ≠ .modeParamWait → s.seq ≠ .dataDma →
    s.readPointer = s.writtenLength → s.chunkRemaining = 0 →
    exec (.rdWide oo) s = .next
      { s with seq := if s.seq = .dataWait then .dataPio else s.seq, out := s.out ++ [.busRead 0] }

/-- Pop: a wide read with a staged word returns it and advances; the last staged word empties the buffer, signals
nothing when a further chunk is announced, and is the final completion when none is (R145, R146); DATA_WAIT becomes
DATA_PIO first (R140). The order of the interrupt and the returned word is not fixed (notes/assumptions/8.md). -/
def Obligations.StagedWordIsPoppedInOrder : Prop :=
  ∀ (s : State) (oo : BitVec 2) (w : Word),
    s.seq ≠ .packetBuild → s.seq ≠ .modeParamWait → s.seq ≠ .dataDma → s.rb[s.readPointer]? = some w →
    (s.readPointer + 1 < s.writtenLength →
      exec (.rdWide oo) s = .next
        { s with
          seq := if s.seq = .dataWait then .dataPio else s.seq
          readPointer := s.readPointer + 1
          out := s.out ++ [.busRead (w.setWidth 32)] }) ∧
    (s.readPointer + 1 = s.writtenLength → s.chunkRemaining ≠ 0 →
      exec (.rdWide oo) s = .next
        { s with
          seq := if s.seq = .dataWait then .dataPio else s.seq
          rb := [], readPointer := 0
          out := s.out ++ [.busRead (w.setWidth 32)] }) ∧
    (s.readPointer + 1 = s.writtenLength → s.chunkRemaining = 0 →
      ∃ t os, exec (.rdWide oo) s = .next t ∧ t.out = s.out ++ os ∧
        effects os = [.irq Config.irqVector] ∧ busWords os = [w.setWidth 32] ∧
        { t with out := s.out } =
          { s with
            seq := .complete
            rb := [], readPointer := 0, st := s.st &&& ~~~s.params.stDrq, ir := s.params.irIo })

/-- The first wide read of a chunk of three bytes or more: the whole chunk is read from the device in sectors and
staged as words, first byte low, an odd last byte padded with 0; TransferState and the pair show the next chunk;
`ST`, `IR` and one interrupt announce it; the first word is returned (R140 to R145). The order of the interrupt and the
returned word is not fixed (notes/assumptions/8.md). -/
def Obligations.FirstReadStagesTheWholeChunk : Prop :=
  ∀ (s : State) (oo : BitVec 2),
    s.seq ≠ .packetBuild → s.seq ≠ .modeParamWait → s.seq ≠ .dataDma →
    s.readPointer = s.writtenLength → 3 ≤ s.chunkRemaining →
    ∃ t os, exec (.rdWide oo) s = .next t ∧ t.out = s.out ++ os ∧
      effects os = (sectorSizes s.chunkRemaining).map .readData ++ [.irq Config.irqVector] ∧
      busWords os = [(resultWord s.dev s.chunkRemaining 0).setWidth 32] ∧
      { t with out := s.out } =
        { refilled s.totalRemaining s with
          rb := resultWords s.dev s.chunkRemaining
          readPointer := 1
          dev := s.dev.advance s.chunkRemaining
          st := if s.totalRemaining ≠ 0 then s.params.stDrq ||| s.params.stServiceDsc else s.st &&& ~~~s.params.stDrq
          ir := if s.totalRemaining ≠ 0 then s.params.irIo else s.params.irIo ||| s.params.irCommand
          seq := if s.seq = .dataWait then .dataPio else s.seq }

/-- A transfer of one or two bytes is staged, announced, popped and completed by one wide read, which raises two
interrupts (R148, V43.1, V43.2). The order of the interrupts and the returned word is not fixed
(notes/assumptions/8.md). -/
def Obligations.OneWordTransferEndsInOneRead : Prop :=
  ∀ (s : State) (oo : BitVec 2),
    s.seq ≠ .packetBuild → s.seq ≠ .modeParamWait → s.seq ≠ .dataDma →
    s.readPointer = s.writtenLength → 1 ≤ s.chunkRemaining → s.chunkRemaining ≤ 2 → s.totalRemaining = 0 →
    ∃ t os, exec (.rdWide oo) s = .next t ∧ t.out = s.out ++ os ∧
      effects os = [.readData s.chunkRemaining, .irq Config.irqVector, .irq Config.irqVector] ∧
      busWords os = [(resultWord s.dev s.chunkRemaining 0).setWidth 32] ∧
      { t with out := s.out } =
        { refilled 0 s with
          rb := [], readPointer := 0
          dev := s.dev.advance s.chunkRemaining
          st := s.st &&& ~~~s.params.stDrq
          ir := s.params.irIo
          seq := .complete }

/-- The device reads that staging and a DMA fire add to the trace for a chunk of `c` bytes: `ceil(c/2048)` of them, all
but the last of 2048 bytes, the last of what is left, `c` bytes in all (R57, R141, R157). -/
def Obligations.DeviceReadsAreWholeSectors : Prop :=
  ∀ (i : Instr) (s : State),
    (((∃ oo, i = .rdWide oo) ∧ s.seq ≠ .packetBuild ∧ s.seq ≠ .modeParamWait ∧ s.seq ≠ .dataDma ∧
        s.readPointer = s.writtenLength) ∨
      (i = .dmaFire ∧ s.dmaTimer ≠ .idle)) →
    0 < s.chunkRemaining →
    ∃ t os, exec i s = .next t ∧ t.out = s.out ++ os ∧
      (os.filter Output.isReadData).length = (s.chunkRemaining + 2047) / 2048 ∧
      (∀ k, k + 1 < (s.chunkRemaining + 2047) / 2048 → (os.filter Output.isReadData)[k]? = some (.readData 2048)) ∧
      (os.filter Output.isReadData).getLast? =
        some (.readData (s.chunkRemaining - 2048 * ((s.chunkRemaining - 1) / 2048))) ∧
      bytesRead os = s.chunkRemaining

/-- A whole transfer of `n > 0` bytes drained by wide reads: `ceil(n/2)` reads return the device's bytes in order,
raise one interrupt per chunk and one at the end, and leave the command complete (R149). The reads come with any mask that
LANE_DECODE reads as both halves (R70). -/
def Obligations.PioDrainDeliversTheWholeResult : Prop :=
  ∀ (s : State) (m : DWord) (n : Nat) (xs : List Input),
    laneDecode s.params.laneDecode m = (true, true) → 0 < n → s.seq = .dataWait → s.rb = [] → s.readPointer = 0 →
    s.chunkRemaining = min n 63488 → s.totalRemaining = n - min n 63488 →
    s.inbox = List.replicate ((n + 1) / 2) (.bus .read 0 m 0) ++ xs →
    ∃ t os, Sys2Proof.core.run ((n + 1) / 2) s = .next t ∧ t.out = s.out ++ os ∧
      busWords os = (resultWords s.dev n).map (fun w => w.setWidth 32) ∧
      irqCount os = (n + 63487) / 63488 + 1 ∧
      { t with out := s.out } =
        { s with
          chunkRemaining := 0, totalRemaining := 0, bcl := 0x00, bch := 0x00, ir := s.params.irIo, seq := .complete
          st := (if n ≤ 63488 then s.st else s.params.stDrq ||| s.params.stServiceDsc) &&& ~~~s.params.stDrq
          dev := s.dev.advance n, inbox := xs }

/-- IDENTIFY PACKET DEVICE drained by 256 wide reads: the identify block in order, no device call, one interrupt at
the command and one more by the last read, which clears DRQ and completes; after 255 reads there is only the first
(R112, R150). The accesses come with any masks that LANE_DECODE reads as the high half and as both (R70). The order of
interrupts and returned words is not fixed (notes/assumptions/8.md). -/
def Obligations.IdentifyBlockIsReadInOrder : Prop :=
  ∀ (s : State) (mh mw v : DWord) (xs : List Input),
    s.params.wf = true → laneDecode s.params.laneDecode mh = (false, true) →
    laneDecode s.params.laneDecode mw = (true, true) → v.extractLsb' 16 8 = 0xA1#8 →
    s.inbox = .bus .write 3 mh v :: List.replicate 256 (.bus .read 0 mw 0) ++ xs →
    (∃ t os, Sys2Proof.core.run 256 s = .next t ∧ t.out = s.out ++ os ∧ effects os = [.irq Config.irqVector] ∧
      busWords os = (List.range 255).map (fun k => (Config.identifyWord k).setWidth 32)) ∧
    ∃ t os, Sys2Proof.core.run 257 s = .next t ∧ t.out = s.out ++ os ∧
      effects os = [.irq Config.irqVector, .irq Config.irqVector] ∧
      busWords os = (List.range 256).map (fun k => (Config.identifyWord k).setWidth 32) ∧
      { t with out := s.out } =
        { s with
          pktCount := 0, modeExpect := 0, modeBuf := [], chunkRemaining := 0, totalRemaining := 0, rb := []
          readPointer := 0, st := s.params.stDrq &&& ~~~s.params.stDrq, ir := s.params.irIo, bcl := 0x00, bch := 0x02
          seq := .complete, inbox := xs }

/-! ### The DMA engine and the timers -/

/-- DMA_REQ: the address is latched and the timer armed for whole sectors only; DATA_WAIT becomes DATA_DMA, no other
state changes (R155, R156). -/
def Obligations.BurstRequestArmsTheTimer : Prop :=
  ∀ (s : State) (a : DWord), s.seq ≠ .dataPio → a.toNat % 4 = 0 →
    exec (.dmaReq a) s = .next
      { s with
        dmaDest := a
        dmaTimer := .pending (Config.cyclesPerSector * (s.chunkRemaining / 2048))
        seq := if s.seq = .dataWait then .dataDma else s.seq }

/-- The events the spec gives no meaning, each refused by name: a wide read in DATA_DMA, a burst request in DATA_PIO or
with an address that is not a multiple of 4, the fire of an idle timer (R140, R155, R162, R164). -/
def Obligations.EventsWithoutMeaningAreRefusedByName : Prop :=
  ∀ (s : State) (oo : BitVec 2) (a : DWord),
    (s.seq = .dataDma → exec (.rdWide oo) s = .refused .wideReadDuringDma) ∧
    (s.seq = .dataPio → exec (.dmaReq a) s = .refused .burstRequestDuringPio) ∧
    (s.seq ≠ .dataPio → a.toNat % 4 ≠ 0 → exec (.dmaReq a) s = .refused (.misalignedDestination a)) ∧
    (s.dmaTimer = .idle → exec .dmaFire s = .refused .dmaTimerIdle) ∧
    (s.playTimer = .idle → exec .playFire s = .refused .playTimerIdle)

/-- "The spec refuses exactly these events. Everything else is total" (93_implementation_defined.md section 2, R170):
whatever the state, every instruction answers a next state outside the listed conditions, and in them none does. -/
def Obligations.OnlyTheListedEventsAreRefused : Prop :=
  ∀ (i : Instr) (s : State),
    (∃ t, exec i s = .next t) ↔
      ¬(((∃ oo, i = .rdWide oo) ∧ s.seq = .dataDma) ∨
        (∃ a, i = .dmaReq a ∧ (s.seq = .dataPio ∨ a.toNat % 4 ≠ 0)) ∨
        (i = .dmaFire ∧ s.dmaTimer = .idle) ∨ (i = .playFire ∧ s.playTimer = .idle))

/-- DMA_FIRE, everything but memory and the trace: the chunk is read, the destination advances by 4 per word, the
refill; with a further chunk the timer is re-armed and `ST`, `IR` keep their values, with none the transfer is
complete, COMPLETE being entered from DATA_DMA only (R157 to R160). -/
def Obligations.DmaFireRefillsOrCompletes : Prop :=
  ∀ (s : State) (d : Nat), s.dmaTimer = .pending d →
    ∃ t, exec .dmaFire s = .next t ∧
      (s.totalRemaining ≠ 0 →
        { t with mem := s.mem, out := s.out } =
          { refilled s.totalRemaining s with
            dmaTimer := .pending (Config.cyclesPerSector * (min s.totalRemaining 63488 / 2048))
            dmaDest := s.dmaDest + BitVec.ofNat 32 (4 * ((s.chunkRemaining + 3) / 4))
            dev := s.dev.advance s.chunkRemaining }) ∧
      (s.totalRemaining = 0 →
        { t with mem := s.mem, out := s.out } =
          { refilled 0 s with
            dmaTimer := .idle
            dmaDest := s.dmaDest + BitVec.ofNat 32 (4 * ((s.chunkRemaining + 3) / 4))
            dev := s.dev.advance s.chunkRemaining
            st := s.params.stDriveReady, ir := s.params.irIo ||| s.params.irCommand
            seq := if s.seq = .dataDma then .complete else s.seq })

/-- DMA_FIRE, memory: the bytes of the chunk lie in stream order from the destination up, a short last word padded
with 0, and every other byte of memory reads as before (R54, R61, R157). -/
def Obligations.DmaFireStoresTheChunkInStreamOrder : Prop :=
  ∀ (s : State) (d : Nat), s.dmaTimer = .pending d → s.chunkRemaining ≤ 63488 →
    ∃ t, exec .dmaFire s = .next t ∧
      (∀ k, k < 4 * ((s.chunkRemaining + 3) / 4) →
        t.mem.read (s.dmaDest + BitVec.ofNat 32 k).toNat = some (resultByte s.dev s.chunkRemaining k)) ∧
      (∀ a : Nat, (∀ k, k < 4 * ((s.chunkRemaining + 3) / 4) → a ≠ (s.dmaDest + BitVec.ofNat 32 k).toNat) →
        t.mem.read a = s.mem.read a)

/-- DMA_FIRE, the whole trace: sector by sector the device read and then its 32-bit words in ascending order from the
destination, after all of them one interrupt exactly when no chunk follows, and nothing else (R68, R157, R159, R160). -/
def Obligations.DmaFireTraceIsReadsAndWritesInOrder : Prop :=
  ∀ (s : State) (d : Nat), s.dmaTimer = .pending d →
    ∃ t, exec .dmaFire s = .next t ∧
      t.out = s.out ++
        (List.range ((s.chunkRemaining + 2047) / 2048)).flatMap (sectorTrace s.dev s.dmaDest s.chunkRemaining) ++
        (if s.totalRemaining = 0 then [.irq Config.irqVector] else [])

/-- A whole transfer of `n > 0` bytes by DMA after one burst request: one fire per chunk, one interrupt in all, the
bytes of the result in stream order from the destination, every other byte of memory untouched, the command complete
(R165). Results above 2^32 - 4 bytes, which would wrap over themselves, are left out. -/
def Obligations.DmaTransferDeliversTheWholeResult : Prop :=
  ∀ (s : State) (n d : Nat) (xs : List Input),
    0 < n → n ≤ 2 ^ 32 - 4 → s.seq = .dataDma → s.dmaTimer = .pending d →
    s.chunkRemaining = min n 63488 → s.totalRemaining = n - min n 63488 →
    s.inbox = List.replicate ((n + 63487) / 63488) (.event 1 0) ++ xs →
    ∃ t os, Sys2Proof.core.run ((n + 63487) / 63488) s = .next t ∧ t.out = s.out ++ os ∧
      irqCount os = 1 ∧
      (∀ k, k < 4 * ((n + 3) / 4) → t.mem.read (s.dmaDest + BitVec.ofNat 32 k).toNat = some (resultByte s.dev n k)) ∧
      (∀ a : Nat, (∀ k, k < 4 * ((n + 3) / 4) → a ≠ (s.dmaDest + BitVec.ofNat 32 k).toNat) →
        t.mem.read a = s.mem.read a) ∧
      { t with mem := s.mem, out := s.out } =
        { s with
          chunkRemaining := 0, totalRemaining := 0, bcl := 0x00, bch := 0x00, st := s.params.stDriveReady
          ir := s.params.irIo ||| s.params.irCommand, seq := .complete, dmaTimer := .idle
          dmaDest := s.dmaDest + BitVec.ofNat 32 (4 * ((n + 3) / 4)), dev := s.dev.advance n, inbox := xs }

/-- A stale DMA fire with nothing announced moves nothing: the pair becomes 0, DRIVE_READY, IO|COMMAND and one
interrupt, in every sequencer state (R163(a), R205). -/
def Obligations.StaleDmaFireEndsInDriveReady : Prop :=
  ∀ (s : State) (d : Nat), s.dmaTimer = .pending d → s.chunkRemaining = 0 → s.totalRemaining = 0 →
    exec .dmaFire s = .next
      { s with
        dmaTimer := .idle, bcl := 0x00, bch := 0x00, st := s.params.stDriveReady, ir := s.params.irIo ||| s.params.irCommand
        seq := if s.seq = .dataDma then .complete else s.seq
        out := s.out ++ [.irq Config.irqVector] }

/-- PLAY_FIRE: the timer becomes idle, DRIVE_READY, IO|COMMAND, one interrupt, and nothing else changes (R161).
The effect is the spec's own decision, notes/assumptions/17.md. -/
def Obligations.PlayFireEndsBusy : Prop :=
  ∀ (s : State) (d : Nat), s.playTimer = .pending d →
    exec .playFire s = .next
      { s with
        playTimer := .idle, st := s.params.stDriveReady, ir := s.params.irIo ||| s.params.irCommand
        out := s.out ++ [.irq Config.irqVector] }

/-- No command and no reset cancels a timer: only its own fire makes a pending timer idle (R37, R38, R205). -/
def Obligations.OnlyItsFireEndsAPendingTimer : Prop :=
  ∀ (i : Instr) (s t : State), exec i s = .next t →
    (i ≠ .dmaFire → s.dmaTimer ≠ .idle → t.dmaTimer ≠ .idle) ∧
    (i ≠ .playFire → s.playTimer ≠ .idle → t.playTimer ≠ .idle)

/-! ### The whole machine -/

/-- The invariant holds after construction, the parameters at their defaults (R8). -/
def Obligations.InvariantHoldsAtReset : Prop := Inv State.reset

/-- Every step keeps the invariant of R43, from every state that has it. -/
def Obligations.EveryStepKeepsTheInvariant : Prop :=
  ∀ s t : State, Inv s → step s = .next t → Inv t

/-- The block never sets DMA_READY, CORRECTED or the unnamed status bit, and a host write cannot (R27, R87(g)), the masks
being pairwise different single bits as R8 requires. -/
def Obligations.UnusedStatusBitsStayClear : Prop :=
  ∀ s t : State, s.params.wf = true → s.st &&& unusedStatus s.params = 0 → step s = .next t →
    t.st &&& unusedStatus s.params = 0

/-- Only a host write to InterruptReason can set RELEASE or a reason bit without a name (R29, R87(g)), the masks being
pairwise different single bits as R8 requires. -/
def Obligations.OnlyTheHostSetsReasonBitsAboveIo : Prop :=
  ∀ (i : Instr) (s t : State), s.params.wf = true → (∀ v, i ≠ .wrReg2 v) → exec i s = .next t →
    s.ir &&& unusedReason s.params = 0 → t.ir &&& unusedReason s.params = 0

/-- SectorCountTag, DriveSelect and the Data byte latch: only their own byte write changes them (R20, R21, R24). Nothing
changes the parameters (R41; their place in the state is the model's choice, notes/assumptions/19.md). -/
def Obligations.LatchesChangeOnlyByTheirOwnWrite : Prop :=
  ∀ (i : Instr) (s t : State), exec i s = .next t →
    ((∀ v, i ≠ .wrDl v) → t.dl = s.dl) ∧ ((∀ v, i ≠ .wrReg3 v) → t.sc = s.sc) ∧ ((∀ v, i ≠ .wrReg6 v) → t.ds = s.ds) ∧
      t.params = s.params

/-- The Data byte latch, SectorCountTag and DriveSelect influence nothing: an instruction that neither reads nor
writes them does the same whatever they hold (R21, R24). -/
def Obligations.LatchesInfluenceNothing : Prop :=
  ∀ (i : Instr) (s t : State) (a b c : Byte),
    i ≠ .rdReg0 → i ≠ .rdReg3 → i ≠ .rdReg6 → (∀ v, i ≠ .wrDl v) → (∀ v, i ≠ .wrReg3 v) → (∀ v, i ≠ .wrReg6 v) →
    exec i s = .next t →
    exec i { s with dl := a, sc := b, ds := c } = .next { t with dl := a, sc := b, ds := c }

/-- ErrorFeature changes only by a host write to it, to 0x01 by the reset input, and to 0x50 by a packet the device
rejects: the sixth word of one (R22, R131, R171), or a packet row.
A packet row as one instruction is the model's choice, notes/assumptions/9.md. -/
def Obligations.ErrorFeatureIsWrittenByThreeEvents : Prop :=
  ∀ (i : Instr) (s t : State), i.wf s.params = true → exec i s = .next t →
    t.err = s.err ∨ i = .wrReg1 t.err ∨ ((∃ v, i = .resetLine v) ∧ t.err = 0x01) ∨
    ((∃ oo w, i = .wrWide oo w) ∧ s.seq = .packetBuild ∧ s.pktCount = 5 ∧
      (s.dev.exec (cdbOfPacket t.pkt)).1 = .error ∧ t.err = 0x50) ∨
    (∃ c, i = decodeCdb c ∧ (s.dev.exec c).1 = .error ∧ t.err = 0x50)

/-- The block writes system memory from the DMA timer fire only (R50). -/
def Obligations.OnlyTheDmaFireWritesMemory : Prop :=
  ∀ (i : Instr) (s t : State), i ≠ .dmaFire → exec i s = .next t → t.mem = s.mem

/-- An instruction only adds to the trace, and raises at most two interrupts (R176, R179). -/
def Obligations.AtMostTwoInterruptsPerInstruction : Prop :=
  ∀ (i : Instr) (s t : State), exec i s = .next t → ∃ os, t.out = s.out ++ os ∧ irqCount os ≤ 2
end

