-- ==== Sys2Proof/Laws/Flags.lean ====
section
/-! SUPPORT. What the constraint of R8 on the masks gives: the bits the block writes are apart from those it never sets,
and each update of a status or reason register keeps the latter clear. -/

namespace Sys2Proof.Machine

/-- Different masks of a list with distinct bits share no bit (R8). -/
theorem areDistinctBits_pairwise {ms : List Byte} (h : areDistinctBits ms = true) :
    ms.Pairwise (fun m n => m &&& n = 0) := by
  induction ms with
  | nil => exact .nil
  | cons m ms ih =>
    simp only [areDistinctBits, Bool.and_eq_true, List.all_eq_true, beq_iff_eq] at h
    exact .cons h.1.2 (ih h.2)

/-- A mask among the named ones that shares no bit with the unused ones shares none with their union and the rest. -/
theorem and_unused_eq_zero {x u a : Byte} (hu : x &&& u = 0) (ha : x ||| a = a) : x &&& (u ||| ~~~a) = 0 := by
  ext i hi
  have h1 := congrArg (fun y : Byte => y[i]) hu
  have h2 := congrArg (fun y : Byte => y[i]) ha
  simp only [BitVec.getElem_and, BitVec.getElem_or, BitVec.getElem_not] at h1 h2 ⊢
  revert h1 h2
  cases x[i] <;> cases u[i] <;> cases a[i] <;> simp

/-- The status masks the block uses share no bit with `unusedStatus` (R8, R27). -/
theorem used_and_unusedStatus {p : Params} (h : p.wf = true) :
    p.stBusy &&& unusedStatus p = 0 ∧ p.stDriveReady &&& unusedStatus p = 0 ∧
      p.stServiceDsc &&& unusedStatus p = 0 ∧ p.stDrq &&& unusedStatus p = 0 ∧ p.stCheck &&& unusedStatus p = 0 := by
  simp only [Params.wf, Bool.and_eq_true] at h
  have hp := areDistinctBits_pairwise h.1.1.1
  simp only [Params.statusMasks, List.pairwise_cons, List.mem_cons, List.not_mem_nil, or_false, forall_eq_or_imp,
    forall_eq] at hp
  obtain ⟨⟨-, b2, -, -, b5, -⟩, ⟨r2, -, -, r5, -⟩, ⟨d3, d4, -, d6⟩, ⟨-, v5, -⟩, ⟨q5, -⟩, c6, -⟩ := hp
  have apart : ∀ {x : Byte}, x &&& p.stDmaReady = 0 → x &&& p.stCorrected = 0 →
      x &&& (p.stDmaReady ||| p.stCorrected) = 0 := by
    intro x h1 h2
    rw [BitVec.and_or_distrib_left, h1, h2]; rfl
  rw [BitVec.and_comm] at d3 d4 d6 c6
  refine ⟨and_unused_eq_zero (apart b2 b5) ?_, and_unused_eq_zero (apart r2 r5) ?_,
    and_unused_eq_zero (apart d3 v5) ?_, and_unused_eq_zero (apart d4 q5) ?_, and_unused_eq_zero (apart d6 c6) ?_⟩ <;>
    ext i hi <;> simp only [BitVec.getElem_or] <;> grind

/-- The reason masks the block uses share no bit with `unusedReason` (R8, R29). -/
theorem used_and_unusedReason {p : Params} (h : p.wf = true) :
    p.irIo &&& unusedReason p = 0 ∧ p.irCommand &&& unusedReason p = 0 := by
  simp only [Params.wf, Bool.and_eq_true] at h
  have hp := areDistinctBits_pairwise h.1.1.2
  simp only [Params.reasonMasks, List.pairwise_cons, List.mem_cons, List.not_mem_nil, or_false, forall_eq_or_imp,
    forall_eq] at hp
  obtain ⟨⟨-, c3⟩, i3, -⟩ := hp
  refine ⟨and_unused_eq_zero i3 ?_, and_unused_eq_zero c3 ?_⟩ <;> ext i hi <;> simp only [BitVec.getElem_or] <;> grind

/-- Clearing DRQ keeps clear what is clear (R144, R146). -/
theorem clearDrq_and_eq_zero {p : Params} {x u : Byte} (h : x &&& u = 0) : clearDrq p x &&& u = 0 := by
  rw [clearDrq, BitVec.and_comm x, BitVec.and_assoc, h]; exact BitVec.and_zero

/-- A union is clear of what both parts are clear of. -/
theorem or_and_eq_zero {x y u : Byte} (hx : x &&& u = 0) (hy : y &&& u = 0) : (x ||| y) &&& u = 0 := by
  rw [BitVec.and_comm, BitVec.and_or_distrib_left, BitVec.and_comm u, BitVec.and_comm u, hx, hy]; rfl

/-- "data ready" sets no unused status bit (R27, R28). -/
theorem stDataReady_and_unusedStatus {p : Params} (h : p.wf = true) : stDataReady p &&& unusedStatus p = 0 :=
  or_and_eq_zero (used_and_unusedStatus h).2.2.2.1 (used_and_unusedStatus h).2.2.1

/-- Setting CHECK sets no unused status bit (R27, R131). -/
theorem setCheck_and_unusedStatus {p : Params} {x : Byte} (h : p.wf = true) (hx : x &&& unusedStatus p = 0) :
    setCheck p x &&& unusedStatus p = 0 :=
  or_and_eq_zero hx (used_and_unusedStatus h).2.2.2.2

/-- "nothing remains" sets no unused reason bit (R29). -/
theorem irDone_and_unusedReason {p : Params} (h : p.wf = true) : irDone p &&& unusedReason p = 0 :=
  or_and_eq_zero (used_and_unusedReason h).1 (used_and_unusedReason h).2

end Sys2Proof.Machine
end

