-- ==== Sys2Proof/Laws/Lanes.lean ====
section
/-! SUPPORT. That the default of LANE_DECODE and its complement have a mask for every pair of halves (R70), and what
follows for encoded bus accesses. -/

namespace Sys2Proof

/-- The mask found for a pair of halves is read as that pair (R70). -/
theorem laneDecode_laneMaskOf {d : LaneDecode} (h : lanesEncodable d = true) (lo hi : Bool) :
    laneDecode d (laneMaskOf d lo hi) = (lo, hi) := by
  simp only [lanesEncodable, List.all_cons, List.all_nil, Bool.and_true, Bool.and_eq_true, beq_iff_eq] at h
  obtain ⟨h1, h2, h3, h4⟩ := h
  cases lo <;> cases hi <;> assumption

theorem lanesEncodable_activeHigh : lanesEncodable .activeHigh = true := by decide

theorem lanesEncodable_activeLow : lanesEncodable .activeLow = true := by decide

/-- An active-low platform supplies the complement of the mask (R70). -/
theorem laneDecode_activeLow (m : DWord) : laneDecode .activeLow m = laneDecode .activeHigh (~~~m) := by
  have half : ∀ x : BitVec 16, (x != 0xFFFF) = (~~~x != 0) := by
    intro x
    have key : x = 0xFFFF ↔ ~~~x = 0 :=
      ⟨fun h => by subst h; rfl, fun h => by rw [← BitVec.not_not (b := x), h]; rfl⟩
    rw [Bool.eq_iff_iff, bne_iff_ne, bne_iff_ne, ne_eq, ne_eq, key]
  simp only [laneDecode, half]
  congr 2 <;> ext i hi <;> simp <;> omega

/-- A selector is read back from the bus access that encodes it (R91). -/
theorem selectorOf_fields (sel : BitVec 5) :
    selectorOf (selectorDir sel) (BitVec.ofNat 2 (selectorOffset sel).toNat) (selectorLo sel) (selectorHi sel) = sel := by
  revert sel; decide

/-- An encoded bus access decodes at level 1 to the instruction of its selector (R71 to R74). -/
theorem decode_busInput {p : Params} (h : lanesEncodable p.laneDecode = true) (sel : BitVec 5) (v : DWord) :
    decode p (busInput p.laneDecode sel v) = .ok (decodeSelector sel v) := by
  simp only [busInput, decode, (selectorOffset sel).isLt, if_true, laneDecode_laneMaskOf h, selectorOf_fields]

end Sys2Proof
end

