-- ==== Sys2Proof/Laws/Memory.lean ====
section
/-! SUPPORT. The basic laws of system memory: a read after a write, the canonical form kept by every write. -/

namespace Sys2Proof.Machine

@[simp] theorem Memory.read_write_same (m : Memory) (a : Nat) (b : Byte) : (m.write a b).read a = some b := by
  induction m with
  | nil => simp [Memory.write, Memory.read]
  | cons c m ih =>
    obtain ⟨k, v⟩ := c
    simp only [Memory.write]
    split
    · simp [Memory.read]
    · split
      · simp [Memory.read]
      · next h1 h2 => simp [Memory.read, Ne.symm h2, ih]

theorem Memory.read_write_other (m : Memory) {a a' : Nat} (b : Byte) (h : a' ≠ a) :
    (m.write a b).read a' = m.read a' := by
  induction m with
  | nil => simp [Memory.write, Memory.read, Ne.symm h]
  | cons c m ih =>
    obtain ⟨k, v⟩ := c
    simp only [Memory.write]
    split
    · simp [Memory.read, Ne.symm h]
    · split
      · next h1 h2 => subst h2; simp [Memory.read, Ne.symm h]
      · simp [Memory.read, ih]

theorem Memory.read_write (m : Memory) (a a' : Nat) (b : Byte) :
    (m.write a b).read a' = if a' = a then some b else m.read a' := by
  by_cases h : a' = a
  · subst h; simp
  · simp [h, Memory.read_write_other m b h]

theorem Memory.wfAbove_write {lo : Nat} {m : Memory} {a : Nat} (b : Byte) (h : Memory.wfAbove lo m)
    (ha : lo < a) : Memory.wfAbove lo (m.write a b) := by
  induction m generalizing lo with
  | nil => simp [Memory.write, Memory.wfAbove, ha]
  | cons c m ih =>
    obtain ⟨k, v⟩ := c
    simp only [Memory.wfAbove, Bool.and_eq_true, decide_eq_true_eq] at h
    simp only [Memory.write]
    split
    · next h1 => simp [Memory.wfAbove, ha, h1, h.2]
    · split
      · next h1 h2 => subst h2; simp [Memory.wfAbove, h.1, h.2]
      · next h1 h2 => simpa [Memory.wfAbove, h.1] using ih h.2 (by omega)

/-- Every write of a byte keeps the canonical form. -/
theorem Memory.wf_write {m : Memory} (a : Nat) (b : Byte) (h : m.wf) : (m.write a b).wf := by
  cases m with
  | nil => rfl
  | cons c m =>
    obtain ⟨k, v⟩ := c
    simp only [Memory.wf] at h
    simp only [Memory.write]
    split
    · next h1 => simpa [Memory.wf, Memory.wfAbove, h1] using h
    · split
      · next h1 h2 => subst h2; exact h
      · next h1 h2 => exact Memory.wfAbove_write b h (by omega)

/-- Every write of a 32-bit word keeps the canonical form. -/
theorem Memory.wf_write32 {m : Memory} (a v : DWord) (h : m.wf) : (m.write32 a v).wf :=
  Memory.wf_write _ _ (Memory.wf_write _ _ (Memory.wf_write _ _ (Memory.wf_write _ _ h)))

theorem Memory.mem_write {m : Memory} {a : Nat} {b : Byte} {c : Host.Cell} (h : c ∈ m.write a b) :
    c = (a, b) ∨ c ∈ m := by
  induction m with
  | nil => simpa [Memory.write] using h
  | cons d m ih =>
    obtain ⟨k, v⟩ := d
    simp only [Memory.write] at h
    split at h
    · simpa using h
    · split at h
      · simp at h ⊢; tauto
      · simp at h ⊢; tauto

theorem Memory.addr_lt_write32 {m : Memory} (a v : DWord) (h : ∀ c ∈ m, c.1 < 2 ^ 32) :
    ∀ c ∈ m.write32 a v, c.1 < 2 ^ 32 := by
  intro c hc
  have key : ∀ (x : DWord) (b : Byte) (m : Memory), (∀ c ∈ m, c.1 < 2 ^ 32) → ∀ c ∈ m.write x.toNat b, c.1 < 2 ^ 32 := by
    intro x b m hm c hc
    rcases Memory.mem_write hc with rfl | hc
    · exact x.isLt
    · exact hm c hc
  exact key _ _ _ (key _ _ _ (key _ _ _ (key _ _ _ h))) c hc

/-- The four bytes a word write stores, low byte first (R54), and what it leaves. -/
theorem Memory.read_write32 (m : Memory) (a v : DWord) (x : Nat) :
    (m.write32 a v).read x =
      if x = (a + 3).toNat then some (v.extractLsb' 24 8)
      else if x = (a + 2).toNat then some (v.extractLsb' 16 8)
      else if x = (a + 1).toNat then some (v.extractLsb' 8 8)
      else if x = a.toNat then some (v.extractLsb' 0 8)
      else m.read x := by
  simp only [Memory.write32, Memory.read_write]

/-- The memory after construction is in its canonical form. -/
theorem reset_mem_wf : State.reset.mem.wf = true := rfl

end Sys2Proof.Machine
end

