-- ==== Sys2Proof/Laws/Pack.lean ====
section
/-! SUPPORT. Laws of the byte packing (R59 to R61), of the device stream (R57) and of the sizes of the device reads
(R141, R157). -/

namespace Sys2Proof.Machine

/-! ### Packing -/

theorem packWords_length (bs : List Byte) : (packWords bs).length = (bs.length + 1) / 2 := by
  induction bs using packWords.induct with
  | case1 => simp [packWords]
  | case2 b => simp [packWords]
  | case3 b0 b1 bs ih => simp [packWords, ih]; omega

/-- A prefix of even length packs by itself. -/
theorem packWords_append (as bs : List Byte) (h : as.length % 2 = 0) :
    packWords (as ++ bs) = packWords as ++ packWords bs := by
  induction as using packWords.induct with
  | case1 => rfl
  | case2 b => simp at h
  | case3 b0 b1 as ih => simp [packWords, ih (by simp only [List.length_cons] at h; omega)]

/-- Word `k` holds byte `2k` low and byte `2k+1` high, bytes past the end being 0 (R59, R142). -/
theorem packWords_getD (bs : List Byte) (k : Nat) :
    (packWords bs).getD k 0 = wordOfBytes (bs.getD (2 * k) 0) (bs.getD (2 * k + 1) 0) := by
  induction bs using packWords.induct generalizing k with
  | case1 => simp [packWords, wordOfBytes]
  | case2 b => cases k <;> simp [packWords, wordOfBytes, Nat.mul_succ]
  | case3 b0 b1 bs ih =>
    cases k with
    | zero => simp [packWords]
    | succ k => simpa [packWords, Nat.mul_succ] using ih k

theorem packDwords_length (bs : List Byte) : (packDwords bs).length = (bs.length + 3) / 4 := by
  induction bs using packDwords.induct with
  | case1 => simp [packDwords]
  | case2 => simp [packDwords]
  | case3 => simp [packDwords]
  | case4 => simp [packDwords]
  | case5 b0 b1 b2 b3 bs ih => simp [packDwords, ih]; omega

/-- A prefix whose length is a multiple of 4 packs by itself. -/
theorem packDwords_append (as bs : List Byte) (h : as.length % 4 = 0) :
    packDwords (as ++ bs) = packDwords as ++ packDwords bs := by
  induction as using packDwords.induct with
  | case1 => rfl
  | case2 => simp at h
  | case3 => simp at h
  | case4 => simp at h
  | case5 b0 b1 b2 b3 as ih => simp [packDwords, ih (by simp only [List.length_cons] at h; omega)]

/-- 32-bit word `k` holds bytes `4k` to `4k+3`, the first lowest, bytes past the end being 0 (R61). -/
theorem packDwords_getD (bs : List Byte) (k : Nat) :
    (packDwords bs).getD k 0 =
      dwordOfBytes (bs.getD (4 * k) 0) (bs.getD (4 * k + 1) 0) (bs.getD (4 * k + 2) 0) (bs.getD (4 * k + 3) 0) := by
  induction bs using packDwords.induct generalizing k with
  | case1 => simp [packDwords, dwordOfBytes]
  | case2 => cases k <;> simp [packDwords, dwordOfBytes, Nat.mul_succ]
  | case3 => cases k <;> simp [packDwords, dwordOfBytes, Nat.mul_succ]
  | case4 => cases k <;> simp [packDwords, dwordOfBytes, Nat.mul_succ]
  | case5 b0 b1 b2 b3 bs ih =>
    cases k with
    | zero => simp [packDwords]
    | succ k => simpa [packDwords, Nat.mul_succ] using ih k

@[simp] theorem lowByte_wordOfBytes (lo hi : Byte) : lowByte (wordOfBytes lo hi) = lo := by
  simp only [lowByte, wordOfBytes]
  ext i h
  have key := BitVec.getLsbD_append (x := hi) (y := lo) (i := i)
  simp [h] at key ⊢
  exact key

@[simp] theorem highByte_wordOfBytes (lo hi : Byte) : highByte (wordOfBytes lo hi) = hi := by
  simp only [highByte, wordOfBytes]
  ext i h
  have key := BitVec.getLsbD_append (x := hi) (y := lo) (i := 8 + i)
  simp [h] at key ⊢
  exact key

/-- The six words of a packet carry its twelve bytes (R60, R80). -/
theorem cdbOfPacket_words (c : Cdb) :
    cdbOfPacket #v[wordOfBytes c.op c.tail.b1, wordOfBytes c.tail.b2 c.tail.b3, wordOfBytes c.tail.b4 c.tail.b5,
      wordOfBytes c.tail.b6 c.tail.b7, wordOfBytes c.tail.b8 c.tail.b9, wordOfBytes c.tail.b10 c.tail.b11] = c := by
  simp [cdbOfPacket]

/-! ### The device -/

@[simp] theorem Device.nextBytes_length (n : Nat) (d : Device) : (d.nextBytes n).length = n := by
  simp [Device.nextBytes]

@[simp] theorem Device.nextBytes_zero (d : Device) : d.nextBytes 0 = [] := rfl

@[simp] theorem Device.advance_zero (d : Device) : d.advance 0 = d := by
  simp [Device.advance]

theorem Device.advance_advance (m n : Nat) (d : Device) : (d.advance m).advance n = d.advance (m + n) := by
  simp only [Device.advance, List.drop_drop, List.length_drop, Device.mk.injEq, true_and]
  omega

/-- Successive calls continue where the last one ended (R57). -/
theorem Device.byteAt_advance (m k : Nat) (d : Device) : (d.advance m).byteAt k = d.byteAt (m + k) := by
  simp only [Device.byteAt, Device.advance, List.getElem?_drop, List.length_drop]
  rcases h : d.stream[m + k]? with _ | b
  · simp only [List.getElem?_eq_none_iff] at h
    simp only
    congr 1; omega
  · rfl

theorem Device.nextBytes_add (m n : Nat) (d : Device) :
    d.nextBytes (m + n) = d.nextBytes m ++ (d.advance m).nextBytes n := by
  simp only [Device.nextBytes, List.range_add, List.map_append, List.map_map]
  congr 1
  apply List.map_congr_left
  intro k _
  simp [Device.byteAt_advance]

theorem Device.nextBytes_getD (n k : Nat) (d : Device) :
    (d.nextBytes n).getD k 0 = if k < n then d.byteAt k else 0 := by
  simp only [Device.nextBytes, List.getD_eq_getElem?_getD, List.getElem?_map]
  by_cases h : k < n <;> simp [h]

/-! ### The sizes of the device reads -/

theorem sectorSizes_small {c : Nat} (h : c < sectorSize) : sectorSizes c = if c = 0 then [] else [c] := by
  simp only [sectorSizes, Nat.div_eq_of_lt h, Nat.mod_eq_of_lt h, List.replicate_zero, List.nil_append]

theorem sectorSizes_large {c : Nat} (h : sectorSize ≤ c) :
    sectorSizes c = sectorSize :: sectorSizes (c - sectorSize) := by
  have h1 : c / sectorSize = (c - sectorSize) / sectorSize + 1 := by
    simp only [sectorSize] at *; omega
  have h2 : c % sectorSize = (c - sectorSize) % sectorSize := (Nat.mod_eq_sub_mod h)
  simp only [sectorSizes, h1, List.replicate_succ, h2, List.cons_append]

/-- There are `ceil(c/2048)` reads, they pull `c` bytes, and none asks for more than a sector (R141). -/
theorem sectorSizes_length (c : Nat) : (sectorSizes c).length = sectorCount c := by
  simp only [sectorSizes, List.length_append, List.length_replicate, sectorCount, sectorSize]
  by_cases h : c % 2048 = 0 <;> simp [h] <;> omega

theorem sectorSizes_sum (c : Nat) : (sectorSizes c).sum = c := by
  simp only [sectorSizes, List.sum_append, List.sum_replicate, smul_eq_mul, sectorSize]
  by_cases h : c % 2048 = 0 <;> simp [h] <;> omega

end Sys2Proof.Machine
end

