-- ==== Sys2Proof/Laws/State.lean ====
section
/-! SUPPORT. For each shared update of the state one lemma per field, true by `rfl`: what the update writes and what
it leaves. -/

namespace Sys2Proof.Machine

/-! ### emit -/

@[simp] theorem emit_dl (o : Output) (s : State) : (emit o s).dl = s.dl := rfl
@[simp] theorem emit_err (o : Output) (s : State) : (emit o s).err = s.err := rfl
@[simp] theorem emit_ir (o : Output) (s : State) : (emit o s).ir = s.ir := rfl
@[simp] theorem emit_sc (o : Output) (s : State) : (emit o s).sc = s.sc := rfl
@[simp] theorem emit_bcl (o : Output) (s : State) : (emit o s).bcl = s.bcl := rfl
@[simp] theorem emit_bch (o : Output) (s : State) : (emit o s).bch = s.bch := rfl
@[simp] theorem emit_ds (o : Output) (s : State) : (emit o s).ds = s.ds := rfl
@[simp] theorem emit_st (o : Output) (s : State) : (emit o s).st = s.st := rfl
@[simp] theorem emit_seq (o : Output) (s : State) : (emit o s).seq = s.seq := rfl
@[simp] theorem emit_pkt (o : Output) (s : State) : (emit o s).pkt = s.pkt := rfl
@[simp] theorem emit_pktCount (o : Output) (s : State) : (emit o s).pktCount = s.pktCount := rfl
@[simp] theorem emit_modeExpect (o : Output) (s : State) : (emit o s).modeExpect = s.modeExpect := rfl
@[simp] theorem emit_modeBuf (o : Output) (s : State) : (emit o s).modeBuf = s.modeBuf := rfl
@[simp] theorem emit_chunkRemaining (o : Output) (s : State) : (emit o s).chunkRemaining = s.chunkRemaining := rfl
@[simp] theorem emit_totalRemaining (o : Output) (s : State) : (emit o s).totalRemaining = s.totalRemaining := rfl
@[simp] theorem emit_rb (o : Output) (s : State) : (emit o s).rb = s.rb := rfl
@[simp] theorem emit_readPointer (o : Output) (s : State) : (emit o s).readPointer = s.readPointer := rfl
@[simp] theorem emit_dmaDest (o : Output) (s : State) : (emit o s).dmaDest = s.dmaDest := rfl
@[simp] theorem emit_dmaTimer (o : Output) (s : State) : (emit o s).dmaTimer = s.dmaTimer := rfl
@[simp] theorem emit_playTimer (o : Output) (s : State) : (emit o s).playTimer = s.playTimer := rfl
@[simp] theorem emit_resetPrev (o : Output) (s : State) : (emit o s).resetPrev = s.resetPrev := rfl
@[simp] theorem emit_mem (o : Output) (s : State) : (emit o s).mem = s.mem := rfl
@[simp] theorem emit_out (o : Output) (s : State) : (emit o s).out = s.out ++ [o] := rfl
@[simp] theorem emit_dev (o : Output) (s : State) : (emit o s).dev = s.dev := rfl
@[simp] theorem emit_inbox (o : Output) (s : State) : (emit o s).inbox = s.inbox := rfl
@[simp] theorem emit_params (o : Output) (s : State) : (emit o s).params = s.params := rfl

/-! ### raiseIrq -/

@[simp] theorem raiseIrq_dl (s : State) : (raiseIrq s).dl = s.dl := rfl
@[simp] theorem raiseIrq_err (s : State) : (raiseIrq s).err = s.err := rfl
@[simp] theorem raiseIrq_ir (s : State) : (raiseIrq s).ir = s.ir := rfl
@[simp] theorem raiseIrq_sc (s : State) : (raiseIrq s).sc = s.sc := rfl
@[simp] theorem raiseIrq_bcl (s : State) : (raiseIrq s).bcl = s.bcl := rfl
@[simp] theorem raiseIrq_bch (s : State) : (raiseIrq s).bch = s.bch := rfl
@[simp] theorem raiseIrq_ds (s : State) : (raiseIrq s).ds = s.ds := rfl
@[simp] theorem raiseIrq_st (s : State) : (raiseIrq s).st = s.st := rfl
@[simp] theorem raiseIrq_seq (s : State) : (raiseIrq s).seq = s.seq := rfl
@[simp] theorem raiseIrq_pkt (s : State) : (raiseIrq s).pkt = s.pkt := rfl
@[simp] theorem raiseIrq_pktCount (s : State) : (raiseIrq s).pktCount = s.pktCount := rfl
@[simp] theorem raiseIrq_modeExpect (s : State) : (raiseIrq s).modeExpect = s.modeExpect := rfl
@[simp] theorem raiseIrq_modeBuf (s : State) : (raiseIrq s).modeBuf = s.modeBuf := rfl
@[simp] theorem raiseIrq_chunkRemaining (s : State) : (raiseIrq s).chunkRemaining = s.chunkRemaining := rfl
@[simp] theorem raiseIrq_totalRemaining (s : State) : (raiseIrq s).totalRemaining = s.totalRemaining := rfl
@[simp] theorem raiseIrq_rb (s : State) : (raiseIrq s).rb = s.rb := rfl
@[simp] theorem raiseIrq_readPointer (s : State) : (raiseIrq s).readPointer = s.readPointer := rfl
@[simp] theorem raiseIrq_dmaDest (s : State) : (raiseIrq s).dmaDest = s.dmaDest := rfl
@[simp] theorem raiseIrq_dmaTimer (s : State) : (raiseIrq s).dmaTimer = s.dmaTimer := rfl
@[simp] theorem raiseIrq_playTimer (s : State) : (raiseIrq s).playTimer = s.playTimer := rfl
@[simp] theorem raiseIrq_resetPrev (s : State) : (raiseIrq s).resetPrev = s.resetPrev := rfl
@[simp] theorem raiseIrq_mem (s : State) : (raiseIrq s).mem = s.mem := rfl
@[simp] theorem raiseIrq_out (s : State) : (raiseIrq s).out = s.out ++ [.irq Config.irqVector] := rfl
@[simp] theorem raiseIrq_dev (s : State) : (raiseIrq s).dev = s.dev := rfl
@[simp] theorem raiseIrq_inbox (s : State) : (raiseIrq s).inbox = s.inbox := rfl
@[simp] theorem raiseIrq_params (s : State) : (raiseIrq s).params = s.params := rfl

/-! ### returnBus -/

@[simp] theorem returnBus_dl (v : DWord) (s : State) : (returnBus v s).dl = s.dl := rfl
@[simp] theorem returnBus_err (v : DWord) (s : State) : (returnBus v s).err = s.err := rfl
@[simp] theorem returnBus_ir (v : DWord) (s : State) : (returnBus v s).ir = s.ir := rfl
@[simp] theorem returnBus_sc (v : DWord) (s : State) : (returnBus v s).sc = s.sc := rfl
@[simp] theorem returnBus_bcl (v : DWord) (s : State) : (returnBus v s).bcl = s.bcl := rfl
@[simp] theorem returnBus_bch (v : DWord) (s : State) : (returnBus v s).bch = s.bch := rfl
@[simp] theorem returnBus_ds (v : DWord) (s : State) : (returnBus v s).ds = s.ds := rfl
@[simp] theorem returnBus_st (v : DWord) (s : State) : (returnBus v s).st = s.st := rfl
@[simp] theorem returnBus_seq (v : DWord) (s : State) : (returnBus v s).seq = s.seq := rfl
@[simp] theorem returnBus_pkt (v : DWord) (s : State) : (returnBus v s).pkt = s.pkt := rfl
@[simp] theorem returnBus_pktCount (v : DWord) (s : State) : (returnBus v s).pktCount = s.pktCount := rfl
@[simp] theorem returnBus_modeExpect (v : DWord) (s : State) : (returnBus v s).modeExpect = s.modeExpect := rfl
@[simp] theorem returnBus_modeBuf (v : DWord) (s : State) : (returnBus v s).modeBuf = s.modeBuf := rfl
@[simp] theorem returnBus_chunkRemaining (v : DWord) (s : State) : (returnBus v s).chunkRemaining = s.chunkRemaining := rfl
@[simp] theorem returnBus_totalRemaining (v : DWord) (s : State) : (returnBus v s).totalRemaining = s.totalRemaining := rfl
@[simp] theorem returnBus_rb (v : DWord) (s : State) : (returnBus v s).rb = s.rb := rfl
@[simp] theorem returnBus_readPointer (v : DWord) (s : State) : (returnBus v s).readPointer = s.readPointer := rfl
@[simp] theorem returnBus_dmaDest (v : DWord) (s : State) : (returnBus v s).dmaDest = s.dmaDest := rfl
@[simp] theorem returnBus_dmaTimer (v : DWord) (s : State) : (returnBus v s).dmaTimer = s.dmaTimer := rfl
@[simp] theorem returnBus_playTimer (v : DWord) (s : State) : (returnBus v s).playTimer = s.playTimer := rfl
@[simp] theorem returnBus_resetPrev (v : DWord) (s : State) : (returnBus v s).resetPrev = s.resetPrev := rfl
@[simp] theorem returnBus_mem (v : DWord) (s : State) : (returnBus v s).mem = s.mem := rfl
@[simp] theorem returnBus_out (v : DWord) (s : State) : (returnBus v s).out = s.out ++ [.busRead v] := rfl
@[simp] theorem returnBus_dev (v : DWord) (s : State) : (returnBus v s).dev = s.dev := rfl
@[simp] theorem returnBus_inbox (v : DWord) (s : State) : (returnBus v s).inbox = s.inbox := rfl
@[simp] theorem returnBus_params (v : DWord) (s : State) : (returnBus v s).params = s.params := rfl

/-! ### setByteCount -/

@[simp] theorem setByteCount_dl (c : Nat) (s : State) : (setByteCount c s).dl = s.dl := rfl
@[simp] theorem setByteCount_err (c : Nat) (s : State) : (setByteCount c s).err = s.err := rfl
@[simp] theorem setByteCount_ir (c : Nat) (s : State) : (setByteCount c s).ir = s.ir := rfl
@[simp] theorem setByteCount_sc (c : Nat) (s : State) : (setByteCount c s).sc = s.sc := rfl
@[simp] theorem setByteCount_bcl (c : Nat) (s : State) : (setByteCount c s).bcl = BitVec.ofNat 8 c := rfl
@[simp] theorem setByteCount_bch (c : Nat) (s : State) : (setByteCount c s).bch = BitVec.ofNat 8 (c / 256) := rfl
@[simp] theorem setByteCount_ds (c : Nat) (s : State) : (setByteCount c s).ds = s.ds := rfl
@[simp] theorem setByteCount_st (c : Nat) (s : State) : (setByteCount c s).st = s.st := rfl
@[simp] theorem setByteCount_seq (c : Nat) (s : State) : (setByteCount c s).seq = s.seq := rfl
@[simp] theorem setByteCount_pkt (c : Nat) (s : State) : (setByteCount c s).pkt = s.pkt := rfl
@[simp] theorem setByteCount_pktCount (c : Nat) (s : State) : (setByteCount c s).pktCount = s.pktCount := rfl
@[simp] theorem setByteCount_modeExpect (c : Nat) (s : State) : (setByteCount c s).modeExpect = s.modeExpect := rfl
@[simp] theorem setByteCount_modeBuf (c : Nat) (s : State) : (setByteCount c s).modeBuf = s.modeBuf := rfl
@[simp] theorem setByteCount_chunkRemaining (c : Nat) (s : State) : (setByteCount c s).chunkRemaining = s.chunkRemaining := rfl
@[simp] theorem setByteCount_totalRemaining (c : Nat) (s : State) : (setByteCount c s).totalRemaining = s.totalRemaining := rfl
@[simp] theorem setByteCount_rb (c : Nat) (s : State) : (setByteCount c s).rb = s.rb := rfl
@[simp] theorem setByteCount_readPointer (c : Nat) (s : State) : (setByteCount c s).readPointer = s.readPointer := rfl
@[simp] theorem setByteCount_dmaDest (c : Nat) (s : State) : (setByteCount c s).dmaDest = s.dmaDest := rfl
@[simp] theorem setByteCount_dmaTimer (c : Nat) (s : State) : (setByteCount c s).dmaTimer = s.dmaTimer := rfl
@[simp] theorem setByteCount_playTimer (c : Nat) (s : State) : (setByteCount c s).playTimer = s.playTimer := rfl
@[simp] theorem setByteCount_resetPrev (c : Nat) (s : State) : (setByteCount c s).resetPrev = s.resetPrev := rfl
@[simp] theorem setByteCount_mem (c : Nat) (s : State) : (setByteCount c s).mem = s.mem := rfl
@[simp] theorem setByteCount_out (c : Nat) (s : State) : (setByteCount c s).out = s.out := rfl
@[simp] theorem setByteCount_dev (c : Nat) (s : State) : (setByteCount c s).dev = s.dev := rfl
@[simp] theorem setByteCount_inbox (c : Nat) (s : State) : (setByteCount c s).inbox = s.inbox := rfl
@[simp] theorem setByteCount_params (c : Nat) (s : State) : (setByteCount c s).params = s.params := rfl

/-! ### clearCommandState -/

@[simp] theorem clearCommandState_dl (s : State) : (clearCommandState s).dl = s.dl := rfl
@[simp] theorem clearCommandState_err (s : State) : (clearCommandState s).err = s.err := rfl
@[simp] theorem clearCommandState_ir (s : State) : (clearCommandState s).ir = s.ir := rfl
@[simp] theorem clearCommandState_sc (s : State) : (clearCommandState s).sc = s.sc := rfl
@[simp] theorem clearCommandState_bcl (s : State) : (clearCommandState s).bcl = s.bcl := rfl
@[simp] theorem clearCommandState_bch (s : State) : (clearCommandState s).bch = s.bch := rfl
@[simp] theorem clearCommandState_ds (s : State) : (clearCommandState s).ds = s.ds := rfl
@[simp] theorem clearCommandState_st (s : State) : (clearCommandState s).st = s.st := rfl
@[simp] theorem clearCommandState_seq (s : State) : (clearCommandState s).seq = s.seq := rfl
@[simp] theorem clearCommandState_pkt (s : State) : (clearCommandState s).pkt = s.pkt := rfl
@[simp] theorem clearCommandState_pktCount (s : State) : (clearCommandState s).pktCount = 0 := rfl
@[simp] theorem clearCommandState_modeExpect (s : State) : (clearCommandState s).modeExpect = 0 := rfl
@[simp] theorem clearCommandState_modeBuf (s : State) : (clearCommandState s).modeBuf = [] := rfl
@[simp] theorem clearCommandState_chunkRemaining (s : State) : (clearCommandState s).chunkRemaining = 0 := rfl
@[simp] theorem clearCommandState_totalRemaining (s : State) : (clearCommandState s).totalRemaining = 0 := rfl
@[simp] theorem clearCommandState_rb (s : State) : (clearCommandState s).rb = [] := rfl
@[simp] theorem clearCommandState_readPointer (s : State) : (clearCommandState s).readPointer = 0 := rfl
@[simp] theorem clearCommandState_dmaDest (s : State) : (clearCommandState s).dmaDest = s.dmaDest := rfl
@[simp] theorem clearCommandState_dmaTimer (s : State) : (clearCommandState s).dmaTimer = s.dmaTimer := rfl
@[simp] theorem clearCommandState_playTimer (s : State) : (clearCommandState s).playTimer = s.playTimer := rfl
@[simp] theorem clearCommandState_resetPrev (s : State) : (clearCommandState s).resetPrev = s.resetPrev := rfl
@[simp] theorem clearCommandState_mem (s : State) : (clearCommandState s).mem = s.mem := rfl
@[simp] theorem clearCommandState_out (s : State) : (clearCommandState s).out = s.out := rfl
@[simp] theorem clearCommandState_dev (s : State) : (clearCommandState s).dev = s.dev := rfl
@[simp] theorem clearCommandState_inbox (s : State) : (clearCommandState s).inbox = s.inbox := rfl
@[simp] theorem clearCommandState_params (s : State) : (clearCommandState s).params = s.params := rfl

/-! ### seedTransfer -/

@[simp] theorem seedTransfer_dl (n : Nat) (s : State) : (seedTransfer n s).dl = s.dl := rfl
@[simp] theorem seedTransfer_err (n : Nat) (s : State) : (seedTransfer n s).err = s.err := rfl
@[simp] theorem seedTransfer_ir (n : Nat) (s : State) : (seedTransfer n s).ir = s.ir := rfl
@[simp] theorem seedTransfer_sc (n : Nat) (s : State) : (seedTransfer n s).sc = s.sc := rfl
@[simp] theorem seedTransfer_bcl (n : Nat) (s : State) : (seedTransfer n s).bcl = s.bcl := rfl
@[simp] theorem seedTransfer_bch (n : Nat) (s : State) : (seedTransfer n s).bch = s.bch := rfl
@[simp] theorem seedTransfer_ds (n : Nat) (s : State) : (seedTransfer n s).ds = s.ds := rfl
@[simp] theorem seedTransfer_st (n : Nat) (s : State) : (seedTransfer n s).st = s.st := rfl
@[simp] theorem seedTransfer_seq (n : Nat) (s : State) : (seedTransfer n s).seq = s.seq := rfl
@[simp] theorem seedTransfer_pkt (n : Nat) (s : State) : (seedTransfer n s).pkt = s.pkt := rfl
@[simp] theorem seedTransfer_pktCount (n : Nat) (s : State) : (seedTransfer n s).pktCount = s.pktCount := rfl
@[simp] theorem seedTransfer_modeExpect (n : Nat) (s : State) : (seedTransfer n s).modeExpect = s.modeExpect := rfl
@[simp] theorem seedTransfer_modeBuf (n : Nat) (s : State) : (seedTransfer n s).modeBuf = s.modeBuf := rfl
@[simp] theorem seedTransfer_chunkRemaining (n : Nat) (s : State) : (seedTransfer n s).chunkRemaining = min n maxTransferSize := rfl
@[simp] theorem seedTransfer_totalRemaining (n : Nat) (s : State) : (seedTransfer n s).totalRemaining = n - min n maxTransferSize := rfl
@[simp] theorem seedTransfer_rb (n : Nat) (s : State) : (seedTransfer n s).rb = s.rb := rfl
@[simp] theorem seedTransfer_readPointer (n : Nat) (s : State) : (seedTransfer n s).readPointer = s.readPointer := rfl
@[simp] theorem seedTransfer_dmaDest (n : Nat) (s : State) : (seedTransfer n s).dmaDest = s.dmaDest := rfl
@[simp] theorem seedTransfer_dmaTimer (n : Nat) (s : State) : (seedTransfer n s).dmaTimer = s.dmaTimer := rfl
@[simp] theorem seedTransfer_playTimer (n : Nat) (s : State) : (seedTransfer n s).playTimer = s.playTimer := rfl
@[simp] theorem seedTransfer_resetPrev (n : Nat) (s : State) : (seedTransfer n s).resetPrev = s.resetPrev := rfl
@[simp] theorem seedTransfer_mem (n : Nat) (s : State) : (seedTransfer n s).mem = s.mem := rfl
@[simp] theorem seedTransfer_out (n : Nat) (s : State) : (seedTransfer n s).out = s.out := rfl
@[simp] theorem seedTransfer_dev (n : Nat) (s : State) : (seedTransfer n s).dev = s.dev := rfl
@[simp] theorem seedTransfer_inbox (n : Nat) (s : State) : (seedTransfer n s).inbox = s.inbox := rfl
@[simp] theorem seedTransfer_params (n : Nat) (s : State) : (seedTransfer n s).params = s.params := rfl

/-! ### refill -/

@[simp] theorem refill_dl (s : State) : (refill s).dl = s.dl := rfl
@[simp] theorem refill_err (s : State) : (refill s).err = s.err := rfl
@[simp] theorem refill_ir (s : State) : (refill s).ir = s.ir := rfl
@[simp] theorem refill_sc (s : State) : (refill s).sc = s.sc := rfl
@[simp] theorem refill_bcl (s : State) : (refill s).bcl = BitVec.ofNat 8 (min s.totalRemaining maxTransferSize) := rfl
@[simp] theorem refill_bch (s : State) : (refill s).bch = BitVec.ofNat 8 (min s.totalRemaining maxTransferSize / 256) := rfl
@[simp] theorem refill_ds (s : State) : (refill s).ds = s.ds := rfl
@[simp] theorem refill_st (s : State) : (refill s).st = s.st := rfl
@[simp] theorem refill_seq (s : State) : (refill s).seq = s.seq := rfl
@[simp] theorem refill_pkt (s : State) : (refill s).pkt = s.pkt := rfl
@[simp] theorem refill_pktCount (s : State) : (refill s).pktCount = s.pktCount := rfl
@[simp] theorem refill_modeExpect (s : State) : (refill s).modeExpect = s.modeExpect := rfl
@[simp] theorem refill_modeBuf (s : State) : (refill s).modeBuf = s.modeBuf := rfl
@[simp] theorem refill_chunkRemaining (s : State) : (refill s).chunkRemaining = min s.totalRemaining maxTransferSize := rfl
@[simp] theorem refill_totalRemaining (s : State) : (refill s).totalRemaining = s.totalRemaining - min s.totalRemaining maxTransferSize := rfl
@[simp] theorem refill_rb (s : State) : (refill s).rb = s.rb := rfl
@[simp] theorem refill_readPointer (s : State) : (refill s).readPointer = s.readPointer := rfl
@[simp] theorem refill_dmaDest (s : State) : (refill s).dmaDest = s.dmaDest := rfl
@[simp] theorem refill_dmaTimer (s : State) : (refill s).dmaTimer = s.dmaTimer := rfl
@[simp] theorem refill_playTimer (s : State) : (refill s).playTimer = s.playTimer := rfl
@[simp] theorem refill_resetPrev (s : State) : (refill s).resetPrev = s.resetPrev := rfl
@[simp] theorem refill_mem (s : State) : (refill s).mem = s.mem := rfl
@[simp] theorem refill_out (s : State) : (refill s).out = s.out := rfl
@[simp] theorem refill_dev (s : State) : (refill s).dev = s.dev := rfl
@[simp] theorem refill_inbox (s : State) : (refill s).inbox = s.inbox := rfl
@[simp] theorem refill_params (s : State) : (refill s).params = s.params := rfl

/-! ### pullSector -/

@[simp] theorem pullSector_dl (s : State) : (pullSector s).dl = s.dl := rfl
@[simp] theorem pullSector_err (s : State) : (pullSector s).err = s.err := rfl
@[simp] theorem pullSector_ir (s : State) : (pullSector s).ir = s.ir := rfl
@[simp] theorem pullSector_sc (s : State) : (pullSector s).sc = s.sc := rfl
@[simp] theorem pullSector_bcl (s : State) : (pullSector s).bcl = s.bcl := rfl
@[simp] theorem pullSector_bch (s : State) : (pullSector s).bch = s.bch := rfl
@[simp] theorem pullSector_ds (s : State) : (pullSector s).ds = s.ds := rfl
@[simp] theorem pullSector_st (s : State) : (pullSector s).st = s.st := rfl
@[simp] theorem pullSector_seq (s : State) : (pullSector s).seq = s.seq := rfl
@[simp] theorem pullSector_pkt (s : State) : (pullSector s).pkt = s.pkt := rfl
@[simp] theorem pullSector_pktCount (s : State) : (pullSector s).pktCount = s.pktCount := rfl
@[simp] theorem pullSector_modeExpect (s : State) : (pullSector s).modeExpect = s.modeExpect := rfl
@[simp] theorem pullSector_modeBuf (s : State) : (pullSector s).modeBuf = s.modeBuf := rfl
@[simp] theorem pullSector_chunkRemaining (s : State) : (pullSector s).chunkRemaining = s.chunkRemaining - sectorBytes s := rfl
@[simp] theorem pullSector_totalRemaining (s : State) : (pullSector s).totalRemaining = s.totalRemaining := rfl
@[simp] theorem pullSector_rb (s : State) : (pullSector s).rb = s.rb := rfl
@[simp] theorem pullSector_readPointer (s : State) : (pullSector s).readPointer = s.readPointer := rfl
@[simp] theorem pullSector_dmaDest (s : State) : (pullSector s).dmaDest = s.dmaDest := rfl
@[simp] theorem pullSector_dmaTimer (s : State) : (pullSector s).dmaTimer = s.dmaTimer := rfl
@[simp] theorem pullSector_playTimer (s : State) : (pullSector s).playTimer = s.playTimer := rfl
@[simp] theorem pullSector_resetPrev (s : State) : (pullSector s).resetPrev = s.resetPrev := rfl
@[simp] theorem pullSector_mem (s : State) : (pullSector s).mem = s.mem := rfl
@[simp] theorem pullSector_out (s : State) : (pullSector s).out = s.out ++ [.readData (sectorBytes s)] := rfl
@[simp] theorem pullSector_dev (s : State) : (pullSector s).dev = s.dev.advance (sectorBytes s) := rfl
@[simp] theorem pullSector_inbox (s : State) : (pullSector s).inbox = s.inbox := rfl
@[simp] theorem pullSector_params (s : State) : (pullSector s).params = s.params := rfl

/-! ### storeDword -/

@[simp] theorem storeDword_dl (v : DWord) (s : State) : (storeDword v s).dl = s.dl := rfl
@[simp] theorem storeDword_err (v : DWord) (s : State) : (storeDword v s).err = s.err := rfl
@[simp] theorem storeDword_ir (v : DWord) (s : State) : (storeDword v s).ir = s.ir := rfl
@[simp] theorem storeDword_sc (v : DWord) (s : State) : (storeDword v s).sc = s.sc := rfl
@[simp] theorem storeDword_bcl (v : DWord) (s : State) : (storeDword v s).bcl = s.bcl := rfl
@[simp] theorem storeDword_bch (v : DWord) (s : State) : (storeDword v s).bch = s.bch := rfl
@[simp] theorem storeDword_ds (v : DWord) (s : State) : (storeDword v s).ds = s.ds := rfl
@[simp] theorem storeDword_st (v : DWord) (s : State) : (storeDword v s).st = s.st := rfl
@[simp] theorem storeDword_seq (v : DWord) (s : State) : (storeDword v s).seq = s.seq := rfl
@[simp] theorem storeDword_pkt (v : DWord) (s : State) : (storeDword v s).pkt = s.pkt := rfl
@[simp] theorem storeDword_pktCount (v : DWord) (s : State) : (storeDword v s).pktCount = s.pktCount := rfl
@[simp] theorem storeDword_modeExpect (v : DWord) (s : State) : (storeDword v s).modeExpect = s.modeExpect := rfl
@[simp] theorem storeDword_modeBuf (v : DWord) (s : State) : (storeDword v s).modeBuf = s.modeBuf := rfl
@[simp] theorem storeDword_chunkRemaining (v : DWord) (s : State) : (storeDword v s).chunkRemaining = s.chunkRemaining := rfl
@[simp] theorem storeDword_totalRemaining (v : DWord) (s : State) : (storeDword v s).totalRemaining = s.totalRemaining := rfl
@[simp] theorem storeDword_rb (v : DWord) (s : State) : (storeDword v s).rb = s.rb := rfl
@[simp] theorem storeDword_readPointer (v : DWord) (s : State) : (storeDword v s).readPointer = s.readPointer := rfl
@[simp] theorem storeDword_dmaDest (v : DWord) (s : State) : (storeDword v s).dmaDest = s.dmaDest + 4 := rfl
@[simp] theorem storeDword_dmaTimer (v : DWord) (s : State) : (storeDword v s).dmaTimer = s.dmaTimer := rfl
@[simp] theorem storeDword_playTimer (v : DWord) (s : State) : (storeDword v s).playTimer = s.playTimer := rfl
@[simp] theorem storeDword_resetPrev (v : DWord) (s : State) : (storeDword v s).resetPrev = s.resetPrev := rfl
@[simp] theorem storeDword_mem (v : DWord) (s : State) : (storeDword v s).mem = s.mem.write32 s.dmaDest v := rfl
@[simp] theorem storeDword_out (v : DWord) (s : State) : (storeDword v s).out = s.out ++ [.memWrite s.dmaDest v] := rfl
@[simp] theorem storeDword_dev (v : DWord) (s : State) : (storeDword v s).dev = s.dev := rfl
@[simp] theorem storeDword_inbox (v : DWord) (s : State) : (storeDword v s).inbox = s.inbox := rfl
@[simp] theorem storeDword_params (v : DWord) (s : State) : (storeDword v s).params = s.params := rfl

/-! ### dispatchFailure -/

@[simp] theorem dispatchFailure_dl (s : State) : (dispatchFailure s).dl = s.dl := rfl
@[simp] theorem dispatchFailure_err (s : State) : (dispatchFailure s).err = errIllegalRequest := rfl
@[simp] theorem dispatchFailure_ir (s : State) : (dispatchFailure s).ir = s.ir := rfl
@[simp] theorem dispatchFailure_sc (s : State) : (dispatchFailure s).sc = s.sc := rfl
@[simp] theorem dispatchFailure_bcl (s : State) : (dispatchFailure s).bcl = 0 := rfl
@[simp] theorem dispatchFailure_bch (s : State) : (dispatchFailure s).bch = 0 := rfl
@[simp] theorem dispatchFailure_ds (s : State) : (dispatchFailure s).ds = s.ds := rfl
@[simp] theorem dispatchFailure_st (s : State) : (dispatchFailure s).st = setCheck s.params s.st := rfl
@[simp] theorem dispatchFailure_seq (s : State) : (dispatchFailure s).seq = .complete := rfl
@[simp] theorem dispatchFailure_pkt (s : State) : (dispatchFailure s).pkt = s.pkt := rfl
@[simp] theorem dispatchFailure_pktCount (s : State) : (dispatchFailure s).pktCount = s.pktCount := rfl
@[simp] theorem dispatchFailure_modeExpect (s : State) : (dispatchFailure s).modeExpect = s.modeExpect := rfl
@[simp] theorem dispatchFailure_modeBuf (s : State) : (dispatchFailure s).modeBuf = s.modeBuf := rfl
@[simp] theorem dispatchFailure_chunkRemaining (s : State) : (dispatchFailure s).chunkRemaining = s.chunkRemaining := rfl
@[simp] theorem dispatchFailure_totalRemaining (s : State) : (dispatchFailure s).totalRemaining = s.totalRemaining := rfl
@[simp] theorem dispatchFailure_rb (s : State) : (dispatchFailure s).rb = s.rb := rfl
@[simp] theorem dispatchFailure_readPointer (s : State) : (dispatchFailure s).readPointer = s.readPointer := rfl
@[simp] theorem dispatchFailure_dmaDest (s : State) : (dispatchFailure s).dmaDest = s.dmaDest := rfl
@[simp] theorem dispatchFailure_dmaTimer (s : State) : (dispatchFailure s).dmaTimer = s.dmaTimer := rfl
@[simp] theorem dispatchFailure_playTimer (s : State) : (dispatchFailure s).playTimer = s.playTimer := rfl
@[simp] theorem dispatchFailure_resetPrev (s : State) : (dispatchFailure s).resetPrev = s.resetPrev := rfl
@[simp] theorem dispatchFailure_mem (s : State) : (dispatchFailure s).mem = s.mem := rfl
@[simp] theorem dispatchFailure_out (s : State) : (dispatchFailure s).out = s.out := rfl
@[simp] theorem dispatchFailure_dev (s : State) : (dispatchFailure s).dev = s.dev := rfl
@[simp] theorem dispatchFailure_inbox (s : State) : (dispatchFailure s).inbox = s.inbox := rfl
@[simp] theorem dispatchFailure_params (s : State) : (dispatchFailure s).params = s.params := rfl

end Sys2Proof.Machine
end

