-- ==== Sys2Proof/Laws/Transfer.lean ====
section
/-! SUPPORT. What the two transfer loops do, once: the staging loop in closed form (R141), and the pull-and-write
loop of a DMA fire field by field (R157). -/

namespace Sys2Proof.Machine

theorem sectorCount_zero : sectorCount 0 = 0 := rfl

theorem sectorCount_sub {c : Nat} (h : c ≠ 0) : sectorCount (c - min c sectorSize) + 1 = sectorCount c := by
  simp only [sectorCount, sectorSize]; omega

/-- Peeling one sector off a chunk leaves the sizes of the other reads (R141). -/
theorem sectorSizes_peel {c : Nat} (h : c ≠ 0) :
    sectorSizes c = min c sectorSize :: sectorSizes (c - min c sectorSize) := by
  rcases Nat.lt_or_ge c sectorSize with hc | hc
  · rw [sectorSizes_small hc, Nat.min_eq_left hc.le, Nat.sub_self]
    simp only [h, if_false]; rfl
  · rw [sectorSizes_large hc, Nat.min_eq_right hc]

/-- Peeling one sector off a chunk leaves the other bytes of the stream. -/
theorem nextBytes_peel (d : Device) (c : Nat) :
    d.nextBytes c = d.nextBytes (min c sectorSize) ++ (d.advance (min c sectorSize)).nextBytes (c - min c sectorSize) := by
  rw [← Device.nextBytes_add]
  congr 1; omega

theorem advance_peel (d : Device) (c : Nat) :
    (d.advance (min c sectorSize)).advance (c - min c sectorSize) = d.advance c := by
  rw [Device.advance_advance]
  congr 1; omega

/-- A sector that is not the last of its chunk is whole, so the packing of the chunk is that of its sectors. -/
theorem packWords_peel (d : Device) (c : Nat) :
    packWords (d.nextBytes c) =
      packWords (d.nextBytes (min c sectorSize)) ++
        packWords ((d.advance (min c sectorSize)).nextBytes (c - min c sectorSize)) := by
  rcases Nat.lt_or_ge c sectorSize with hc | hc
  · simp [Nat.min_eq_left hc.le, packWords]
  · rw [nextBytes_peel d c, packWords_append]
    rw [Device.nextBytes_length, Nat.min_eq_right hc]; rfl

theorem packDwords_peel (d : Device) (c : Nat) :
    packDwords (d.nextBytes c) =
      packDwords (d.nextBytes (min c sectorSize)) ++
        packDwords ((d.advance (min c sectorSize)).nextBytes (c - min c sectorSize)) := by
  rcases Nat.lt_or_ge c sectorSize with hc | hc
  · simp [Nat.min_eq_left hc.le, packDwords]
  · rw [nextBytes_peel d c, packDwords_append]
    rw [Device.nextBytes_length, Nat.min_eq_right hc]; rfl

/-- The staging loop: the whole chunk is read, sector by sector, and its words are appended in order (R141). -/
theorem stageSectors_eq (k : Nat) (s : State) (h : sectorCount s.chunkRemaining ≤ k) :
    stageSectors k s =
      { s with
        rb := s.rb ++ packWords (s.dev.nextBytes s.chunkRemaining)
        dev := s.dev.advance s.chunkRemaining
        chunkRemaining := 0
        out := s.out ++ (sectorSizes s.chunkRemaining).map .readData } := by
  have base : ∀ s : State, s.chunkRemaining = 0 → s =
      { s with
        rb := s.rb ++ packWords (s.dev.nextBytes s.chunkRemaining)
        dev := s.dev.advance s.chunkRemaining
        chunkRemaining := 0
        out := s.out ++ (sectorSizes s.chunkRemaining).map .readData } := by
    intro s hs
    have h0 : sectorSizes 0 = [] := rfl
    rw [hs]
    simp only [Device.nextBytes_zero, packWords, List.append_nil, Device.advance_zero, h0, List.map_nil]
    rw [← hs]
  induction k generalizing s with
  | zero =>
    have hs : s.chunkRemaining = 0 := by simp only [sectorCount, sectorSize] at h; omega
    exact base s hs
  | succ k ih =>
    by_cases hs : s.chunkRemaining = 0
    · simp only [stageSectors, hs, if_true]
      simpa only [hs] using base s hs
    · simp only [stageSectors, hs, if_false]
      rw [ih _ (by have := sectorCount_sub hs; simp only [sectorBytes, pullSector_chunkRemaining]; omega)]
      simp only [pullSector, emit, sectorBytes, advance_peel, List.append_assoc, List.singleton_append]
      rw [packWords_peel s.dev s.chunkRemaining, sectorSizes_peel hs, List.map_cons]

/-- Words stored at rising addresses from `a` (R157). -/
def Memory.storeAll : Memory → DWord → List DWord → Memory
  | m, _, [] => m
  | m, a, v :: vs => Memory.storeAll (m.write32 a v) (a + 4) vs

/-- Storing words keeps the canonical form. -/
theorem Memory.wf_storeAll {m : Memory} (a : DWord) (vs : List DWord) (h : m.wf = true) : (m.storeAll a vs).wf = true := by
  induction vs generalizing m a with
  | nil => exact h
  | cons v vs ih => exact ih (a + 4) (Memory.wf_write32 a v h)

/-- Storing words keeps every address below 2^32. -/
theorem Memory.addr_lt_storeAll {m : Memory} (a : DWord) (vs : List DWord) (h : ∀ c ∈ m, c.1 < 2 ^ 32) :
    ∀ c ∈ m.storeAll a vs, c.1 < 2 ^ 32 := by
  induction vs generalizing m a with
  | nil => exact h
  | cons v vs ih => exact ih (a + 4) (Memory.addr_lt_write32 a v h)

/-- The calls that store words at rising addresses from `a` (R157). -/
def memWrites : DWord → List DWord → List Output
  | _, [] => []
  | a, v :: vs => .memWrite a v :: memWrites (a + 4) vs

theorem Memory.storeAll_append (m : Memory) (a : DWord) (vs ws : List DWord) :
    m.storeAll a (vs ++ ws) = (m.storeAll a vs).storeAll (a + 4 * BitVec.ofNat 32 vs.length) ws := by
  induction vs generalizing m a with
  | nil => simp [Memory.storeAll]
  | cons v vs ih =>
    simp only [List.cons_append, Memory.storeAll, ih, List.length_cons]
    congr 1
    rw [BitVec.ofNat_add, BitVec.mul_add]
    simp [BitVec.add_assoc, BitVec.add_comm]

theorem storeDwords_eq (vs : List DWord) (s : State) :
    storeDwords vs s =
      { s with
        mem := s.mem.storeAll s.dmaDest vs
        dmaDest := s.dmaDest + 4 * BitVec.ofNat 32 vs.length
        out := s.out ++ memWrites s.dmaDest vs } := by
  induction vs generalizing s with
  | nil => simp [storeDwords, Memory.storeAll, memWrites]
  | cons v vs ih =>
    have : storeDwords (v :: vs) s = storeDwords vs (storeDword v s) := rfl
    rw [this, ih]
    simp only [storeDword, emit, Memory.storeAll, memWrites, List.append_assoc, List.singleton_append,
      List.length_cons]
    congr 1
    rw [BitVec.ofNat_add, BitVec.mul_add]
    simp [BitVec.add_assoc, BitVec.add_comm]

/-- The calls of a DMA fire on a chunk of `c` bytes: each sector's read, then its writes (R157), at most `k`
sectors. -/
def burstTrace : Nat → Nat → DWord → Device → List Output
  | 0, _, _, _ => []
  | k + 1, c, a, d =>
    if c = 0 then []
    else
      let vs := packDwords (d.nextBytes (min c sectorSize))
      .readData (min c sectorSize) :: memWrites a vs ++
        burstTrace k (c - min c sectorSize) (a + 4 * BitVec.ofNat 32 vs.length) (d.advance (min c sectorSize))

/-- The pull-and-write loop: the whole chunk is read and stored in order from `dmaDest` up (R157). -/
theorem burstSectors_eq (k : Nat) (s : State) (h : sectorCount s.chunkRemaining ≤ k) :
    burstSectors k s =
      { s with
        mem := s.mem.storeAll s.dmaDest (packDwords (s.dev.nextBytes s.chunkRemaining))
        dmaDest := s.dmaDest + 4 * BitVec.ofNat 32 (packDwords (s.dev.nextBytes s.chunkRemaining)).length
        dev := s.dev.advance s.chunkRemaining
        chunkRemaining := 0
        out := s.out ++ burstTrace k s.chunkRemaining s.dmaDest s.dev } := by
  have base : ∀ s : State, s.chunkRemaining = 0 → s =
      { s with
        mem := s.mem.storeAll s.dmaDest (packDwords (s.dev.nextBytes s.chunkRemaining))
        dmaDest := s.dmaDest + 4 * BitVec.ofNat 32 (packDwords (s.dev.nextBytes s.chunkRemaining)).length
        dev := s.dev.advance s.chunkRemaining
        chunkRemaining := 0
        out := s.out ++ [] } := by
    intro s hs
    rw [hs]
    simp only [Device.nextBytes_zero, packDwords, List.append_nil, Device.advance_zero, Memory.storeAll,
      List.length_nil, BitVec.ofNat_eq_ofNat, BitVec.mul_zero, BitVec.add_zero]
    rw [← hs]
  induction k generalizing s with
  | zero =>
    have hs : s.chunkRemaining = 0 := by simp only [sectorCount, sectorSize] at h; omega
    simpa only [burstSectors, burstTrace] using base s hs
  | succ k ih =>
    by_cases hs : s.chunkRemaining = 0
    · simp only [burstSectors, hs, if_true, burstTrace]
      simpa only [hs] using base s hs
    · simp only [burstSectors, hs, if_false, burstTrace]
      rw [storeDwords_eq]
      rw [ih _ (by have := sectorCount_sub hs; simp only [sectorBytes, pullSector_chunkRemaining]; omega)]
      simp only [pullSector, emit, sectorBytes, advance_peel, List.append_assoc, List.cons_append,
        List.nil_append]
      rw [packDwords_peel s.dev s.chunkRemaining, Memory.storeAll_append, List.length_append, BitVec.ofNat_add,
        BitVec.mul_add, BitVec.add_assoc]

end Sys2Proof.Machine
end

