-- ==== Sys2Proof/Laws/Ops.lean ====
section
/-! SUPPORT. For each shared operation one lemma that says once what it does; for a wide read, a burst request, the
timer fires and `step`, an inversion lemma: what is known when it answers a next state. -/

namespace Sys2Proof.Machine

/-! ### Registers -/

theorem reg_setReg (s : State) (r q : TaskReg) (v : Byte) : (s.setReg r v).reg q = if q = r then v else s.reg q := by
  cases r <;> cases q <;> simp [State.setReg, State.reg]

/-- A byte read shows the register in its lane and changes nothing else (R100). -/
theorem readTaskReg_eq (r : TaskReg) (s : State) :
    readTaskReg r s = { s with out := s.out ++ [.busRead (byteLane r.inHighHalf (s.reg r))] } := rfl

/-! ### Reset and the task-file commands -/

/-- What `Reset()` writes and what it keeps (R201). -/
theorem softReset_eq (s : State) :
    softReset s =
      { s with
        st := 0x00, err := 0x01, bcl := 0x14, bch := 0xEB, pktCount := 0, modeExpect := 0, modeBuf := [], rb := []
        readPointer := 0, chunkRemaining := 0, totalRemaining := 0, seq := .ready } := rfl

/-- The reset input: an edge resets, anything else is only sampled (R200). -/
theorem resetEdge_eq (v : DWord) (s : State) :
    resetEdge v s =
      if v ≠ 0 ∧ s.resetPrev = false then { softReset s with resetPrev := true }
      else { s with resetPrev := v != 0 } := by
  by_cases hv : v = 0
  · simp [resetEdge, hv]
  · have hb : (v != 0) = true := by simpa using hv
    rcases hp : s.resetPrev with _ | _ <;> simp only [resetEdge, hb, hp] <;> simp_all

/-- PACKET (R111). -/
theorem packetCommand_eq (s : State) :
    packetCommand s =
      { s with
        pktCount := 0, modeExpect := 0, modeBuf := [], chunkRemaining := 0, totalRemaining := 0, rb := []
        readPointer := 0, st := s.params.stDrq, ir := s.params.irCommand, seq := .packetBuild } := rfl

/-- IDENTIFY PACKET DEVICE (R112). -/
theorem identifyCommand_eq (s : State) :
    identifyCommand s =
      { s with
        pktCount := 0, modeExpect := 0, modeBuf := [], chunkRemaining := 0, totalRemaining := 0, rb := identifyBlock
        readPointer := 0, st := s.params.stDrq, bcl := 0x00, bch := 0x02, seq := .dataPio
        out := s.out ++ [.irq Config.irqVector] } := rfl

/-- SET FEATURES (R113). -/
theorem setFeaturesCommand_eq (s : State) :
    setFeaturesCommand s =
      { s with
        pktCount := 0, modeExpect := 0, modeBuf := [], chunkRemaining := 0, totalRemaining := 0, rb := []
        readPointer := 0, st := 0x00, seq := .ready, out := s.out ++ [.irq Config.irqVector] } := rfl

/-- The command decoder: one of the three commands, or nothing (R110). -/
theorem onCommandWrite_cases (c : Byte) (s : State) :
    (c = s.params.cmdPacket ∧ onCommandWrite c s = packetCommand s) ∨
    (c = cmdIdentify ∧ onCommandWrite c s = identifyCommand s) ∨
    (c = cmdSetFeatures ∧ onCommandWrite c s = setFeaturesCommand s) ∨
    (isRecognisedCommand s.params c = false ∧ onCommandWrite c s = s) := by
  unfold onCommandWrite
  by_cases h1 : c = s.params.cmdPacket
  · simp [h1]
  · by_cases h2 : c = cmdIdentify
    · subst h2; right; left; simp [h1]
    · by_cases h3 : c = cmdSetFeatures
      · subst h3; right; right; left; simp [h1, h2]
      · right; right; right
        simp [h1, h2, h3, isRecognisedCommand, unrecognisedCommand]

/-! ### Dispatch -/

/-- Announcing a transfer: the byte count pair, `ST`, `IR`, `seq` and one interrupt (R124). -/
theorem announceTransfer_eq (s : State) :
    announceTransfer s =
      { s with
        bcl := BitVec.ofNat 8 s.chunkRemaining
        bch := BitVec.ofNat 8 (s.chunkRemaining / 256)
        st := if s.chunkRemaining = 0 then s.params.stDriveReady else stDataReady s.params
        ir := if s.chunkRemaining = 0 then irDone s.params else s.params.irIo
        seq := if s.chunkRemaining = 0 then .complete else .dataWait
        out := s.out ++ [.irq Config.irqVector] } := by
  by_cases h : s.chunkRemaining = 0 <;> simp [announceTransfer, raiseIrq, emit, setByteCount, h]

/-- The side effect of an operation code, by cases (R125 to R130). -/
theorem opcodeSideEffect_cases (c : Cdb) (s : State) :
    (c.op = opTestUnitReady ∧ opcodeSideEffect c s = { s with st := 0x00 }) ∨
    (c.op = opPlay ∧ opcodeSideEffect c s = { s with st := s.params.stBusy, playTimer := .pending Config.cyclesPerSector }) ∨
    (c.op = opModeSelect ∧ 1 ≤ modeSelectWords s.params.modeSelectLen c ∧
      opcodeSideEffect c s = { s with modeExpect := modeSelectWords s.params.modeSelectLen c, modeBuf := [], seq := .modeParamWait }) ∨
    (c.op = opModeSelect ∧ modeSelectWords s.params.modeSelectLen c = 0 ∧ opcodeSideEffect c s = s) ∨
    (c.op = opSetCdromSpeed ∧ opcodeSideEffect c s = { s with st := 0x00 }) ∨
    (isSpecialOpcode c.op = false ∧ opcodeSideEffect c s = s) := by
  unfold opcodeSideEffect
  by_cases h1 : c.op = opTestUnitReady
  · simp [h1, testUnitReadyEffect]
  · by_cases h2 : c.op = opPlay
    · right; left; simp [h2, playEffect, opPlay, opTestUnitReady]
    · by_cases h3 : c.op = opModeSelect
      · by_cases hm : 1 ≤ modeSelectWords s.params.modeSelectLen c
        · right; right; left
          simp [h3, hm, modeSelectEffect, opPlay, opTestUnitReady, opModeSelect]
        · right; right; right; left
          have h0 : modeSelectWords s.params.modeSelectLen c = 0 := by omega
          simp [h3, h0, modeSelectEffect, opPlay, opTestUnitReady, opModeSelect]
      · by_cases h4 : c.op = opSetCdromSpeed
        · right; right; right; right; left
          simp [h4, setCdromSpeedEffect, opPlay, opTestUnitReady, opModeSelect, opSetCdromSpeed]
        · right; right; right; right; right
          simp [h1, h2, h3, h4, isSpecialOpcode]

/-- Dispatch: one device call, then failure or success (R122). -/
theorem dispatch_cases (s : State) :
    ((s.dev.exec (cdbOfPacket s.pkt)).1 = .error ∧
      dispatch s = dispatchFailure
        { s with
          pktCount := 0
          dev := (s.dev.exec (cdbOfPacket s.pkt)).2
          out := s.out ++ [.exec (cdbOfPacket s.pkt)] }) ∨
    (∃ n, (s.dev.exec (cdbOfPacket s.pkt)).1 = .count n ∧
      dispatch s = dispatchSuccess n (cdbOfPacket s.pkt)
        { s with
          pktCount := 0
          dev := (s.dev.exec (cdbOfPacket s.pkt)).2
          out := s.out ++ [.exec (cdbOfPacket s.pkt)] }) := by
  rcases h : (s.dev.exec (cdbOfPacket s.pkt)).1 with n | _
  · right; exact ⟨n, rfl, by simp only [dispatch, h, emit]⟩
  · left; exact ⟨rfl, by simp only [dispatch, h, emit]⟩

/-- A wide write, by cases (R120, R121, R132 to R134). -/
theorem wideWrite_cases (w : Word) (s : State) :
    (s.seq = .packetBuild ∧ s.pktCount + 1 = 6 ∧
      wideWrite w s = dispatch { s with pkt := s.pkt.setIfInBounds s.pktCount w, pktCount := 6 }) ∨
    (s.seq = .packetBuild ∧ s.pktCount + 1 ≠ 6 ∧
      wideWrite w s = { s with pkt := s.pkt.setIfInBounds s.pktCount w, pktCount := s.pktCount + 1 }) ∨
    (s.seq = .modeParamWait ∧ s.modeBuf.length + 1 = s.modeExpect ∧
      wideWrite w s = modeParamComplete { s with modeBuf := s.modeBuf ++ [w] }) ∨
    (s.seq = .modeParamWait ∧ s.modeBuf.length + 1 ≠ s.modeExpect ∧
      wideWrite w s = { s with modeBuf := s.modeBuf ++ [w] }) ∨
    (s.seq ≠ .packetBuild ∧ s.seq ≠ .modeParamWait ∧ wideWrite w s = s) := by
  by_cases h1 : s.seq = .packetBuild
  · have e : wideWrite w s = packetWord w s := by simp only [wideWrite, h1]
    by_cases hp : s.pktCount + 1 = 6
    · left; exact ⟨h1, hp, by simp [e, packetWord, packetWords, hp]⟩
    · right; left; exact ⟨h1, hp, by simp [e, packetWord, packetWords, hp]⟩
  · by_cases h2 : s.seq = .modeParamWait
    · have e : wideWrite w s = modeParamWord w s := by simp only [wideWrite, h2]
      by_cases hm : s.modeBuf.length + 1 = s.modeExpect
      · right; right; left; exact ⟨h2, hm, by simp [e, modeParamWord, hm]⟩
      · right; right; right; left; exact ⟨h2, hm, by simp [e, modeParamWord, hm]⟩
    · right; right; right; right
      refine ⟨h1, h2, ?_⟩
      rcases h : s.seq <;> simp_all [wideWrite]

/-- Mode-parameter completion (R133). -/
theorem modeParamComplete_eq (s : State) :
    modeParamComplete s =
      { s with
        st := clearDrq s.params s.st, chunkRemaining := 0, totalRemaining := 0, modeExpect := 0, modeBuf := [], seq := .ready
        out := s.out ++ [.writeData (2 * s.modeExpect) (bytesOfWords s.modeBuf), .irq Config.irqVector] } := by
  simp [modeParamComplete, raiseIrq, emit]

/-- A whole packet: the command, then the dispatch of its six words (R80, R111, R121, R122). -/
theorem sendPacket_eq (c : Cdb) (s : State) :
    ∃ p : Vector Word 6, cdbOfPacket p = c ∧
      sendPacket c s = dispatch { packetCommand s with pkt := p, pktCount := 6 } := by
  have key : ∀ (w0 w1 w2 w3 w4 w5 : Word),
      (((((s.pkt.setIfInBounds 0 w0).setIfInBounds 1 w1).setIfInBounds 2 w2).setIfInBounds 3 w3).setIfInBounds 4
        w4).setIfInBounds 5 w5 = #v[w0, w1, w2, w3, w4, w5] := by
    intro w0 w1 w2 w3 w4 w5
    ext i hi
    simp only [Vector.getElem_setIfInBounds]
    rcases (by omega : i = 0 ∨ i = 1 ∨ i = 2 ∨ i = 3 ∨ i = 4 ∨ i = 5) with rfl | rfl | rfl | rfl | rfl | rfl <;> simp
  refine ⟨_, cdbOfPacket_words c, ?_⟩
  simp only [sendPacket, packetOfCdb, List.foldl_cons, List.foldl_nil, packetCommand_eq, wideWrite, packetWord,
    packetWords, Nat.reduceAdd, Nat.reduceEqDiff, if_false, if_true, key]

/-! ### The PIO engine -/

/-- Staging: the whole chunk, the refill, and the chunk-ready interrupt (R141 to R144). -/
theorem stage_eq (s : State) :
    stage s =
      { s with
        rb := packWords (s.dev.nextBytes s.chunkRemaining)
        readPointer := 0
        dev := s.dev.advance s.chunkRemaining
        chunkRemaining := min s.totalRemaining maxTransferSize
        totalRemaining := s.totalRemaining - min s.totalRemaining maxTransferSize
        bcl := BitVec.ofNat 8 (min s.totalRemaining maxTransferSize)
        bch := BitVec.ofNat 8 (min s.totalRemaining maxTransferSize / 256)
        st := if min s.totalRemaining maxTransferSize ≠ 0 then stDataReady s.params else clearDrq s.params s.st
        ir := if min s.totalRemaining maxTransferSize ≠ 0 then s.params.irIo else irDone s.params
        out := s.out ++ (sectorSizes s.chunkRemaining).map .readData ++ [.irq Config.irqVector] } := by
  simp only [stage]
  rw [stageSectors_eq (sectorCount s.chunkRemaining) { s with rb := [], readPointer := 0 } (le_refl _)]
  by_cases h : min s.totalRemaining maxTransferSize = 0 <;>
    simp [chunkReady, refill, setByteCount, raiseIrq, emit, h]

/-- The state after a pop, by cases (R145, R146). -/
theorem popWord_cases (s : State) :
    (s.readPointer + 1 = s.writtenLength ∧ s.chunkRemaining = 0 ∧
      popWord s =
        { s with
          rb := [], readPointer := 0, st := clearDrq s.params s.st, ir := s.params.irIo, seq := .complete
          out := s.out ++ [.irq Config.irqVector] }) ∨
    (s.readPointer + 1 = s.writtenLength ∧ s.chunkRemaining ≠ 0 ∧ popWord s = { s with rb := [], readPointer := 0 }) ∨
    (s.readPointer + 1 ≠ s.writtenLength ∧ popWord s = { s with readPointer := s.readPointer + 1 }) := by
  by_cases h : s.readPointer + 1 = s.writtenLength
  · by_cases hc : s.chunkRemaining = 0
    · left; simp [popWord, h, hc, finalCompletion, raiseIrq, emit]
    · right; left; simp [popWord, h, hc]
  · right; right; simp [popWord, h]

/-- Popping or returning 0, by cases (R145, R147). -/
theorem popOrZero_cases (s : State) :
    (s.readPointer < s.writtenLength ∧
      popOrZero s = returnBus (wideLane (s.rb.getD s.readPointer 0)) (popWord s)) ∨
    (s.writtenLength ≤ s.readPointer ∧ popOrZero s = returnBus 0 s) := by
  by_cases h : s.readPointer < s.writtenLength
  · left; exact ⟨h, by simp only [popOrZero, h, if_true]⟩
  · right; exact ⟨by omega, by simp only [popOrZero, h, if_false]⟩

/-- What a wide read does when it answers a next state (R140). -/
theorem wideRead_next {s t : State} (h : wideRead s = .next t) :
    ((s.seq = .packetBuild ∨ s.seq = .modeParamWait) ∧ t = returnBus 0 s) ∨
    (s.seq = .dataWait ∧ t = pioRead { s with seq := .dataPio }) ∨
    ((s.seq = .ready ∨ s.seq = .dataPio ∨ s.seq = .complete) ∧ t = pioRead s) := by
  rcases hs : s.seq <;> simp only [wideRead, hs, Host.Outcome.next.injEq, reduceCtorEq] at h <;> simp [← h]

/-! ### The DMA engine and the timers -/

/-- What a burst request does when it answers a next state (R155). -/
theorem burstRequest_next {a : DWord} {s t : State} (h : burstRequest a s = .next t) :
    s.seq ≠ .dataPio ∧ a.toNat % 4 = 0 ∧
      t = { s with
        dmaDest := a
        dmaTimer := .pending (burstDuration s.chunkRemaining)
        seq := if s.seq = .dataWait then .dataDma else s.seq } := by
  unfold burstRequest at h
  split at h
  · cases h
  · split at h
    · cases h
    · next h1 h2 => exact ⟨h1, by omega, by simpa using h.symm⟩

/-- A DMA fire in closed form: the chunk moves to memory, the refill, then a re-arm or the completion (R157 to
R160). -/
theorem burst_eq (s : State) :
    burst s = dmaAfterRefill (refill
      { s with
        dmaTimer := .idle
        mem := s.mem.storeAll s.dmaDest (packDwords (s.dev.nextBytes s.chunkRemaining))
        dmaDest := s.dmaDest + 4 * BitVec.ofNat 32 (packDwords (s.dev.nextBytes s.chunkRemaining)).length
        dev := s.dev.advance s.chunkRemaining
        chunkRemaining := 0
        out := s.out ++ burstTrace (sectorCount s.chunkRemaining) s.chunkRemaining s.dmaDest s.dev }) := by
  simp only [burst]
  rw [burstSectors_eq (sectorCount s.chunkRemaining) { s with dmaTimer := .idle } (le_refl _)]

/-- After the refill of a DMA fire, by cases (R159, R160). -/
theorem dmaAfterRefill_cases (s : State) :
    (s.chunkRemaining ≠ 0 ∧ dmaAfterRefill s = { s with dmaTimer := .pending (burstDuration s.chunkRemaining) }) ∨
    (s.chunkRemaining = 0 ∧
      dmaAfterRefill s =
        { s with
          st := s.params.stDriveReady, ir := irDone s.params, out := s.out ++ [.irq Config.irqVector]
          seq := if s.seq = .dataDma then .complete else s.seq }) := by
  by_cases h : s.chunkRemaining = 0
  · right; simp [dmaAfterRefill, raiseIrq, emit, h]
  · left; simp [dmaAfterRefill, h]

/-- A DMA fire answers a next state only from a pending timer (R157, R162). -/
theorem dmaTimerFire_next {s t : State} (h : dmaTimerFire s = .next t) :
    (∃ d, s.dmaTimer = .pending d) ∧ t = burst s := by
  rcases hd : s.dmaTimer with _ | d <;> simp only [dmaTimerFire, hd, Host.Outcome.next.injEq, reduceCtorEq] at h
  exact ⟨⟨d, rfl⟩, h.symm⟩

/-- A PLAY fire answers a next state only from a pending timer (R161, R162). -/
theorem playTimerFire_next {s t : State} (h : playTimerFire s = .next t) :
    (∃ d, s.playTimer = .pending d) ∧
      t = { s with
        playTimer := .idle, st := s.params.stDriveReady, ir := irDone s.params, out := s.out ++ [.irq Config.irqVector] } := by
  rcases hd : s.playTimer with _ | d <;> simp only [playTimerFire, hd, Host.Outcome.next.injEq, reduceCtorEq] at h
  exact ⟨⟨d, rfl⟩, h.symm⟩

/-! ### One step -/

/-- What a step does when it answers a next state: nothing without an input, else the decoded instruction runs on
the state without that input (R5, R187). -/
theorem step_next {s t : State} (h : step s = .next t) :
    (s.inbox = [] ∧ t = s) ∨
    (∃ x xs i, s.inbox = x :: xs ∧ decode s.params x = .ok i ∧ exec i { s with inbox := xs } = .next t) := by
  rcases hb : s.inbox with _ | ⟨x, xs⟩
  · left
    simp only [step, fetch, hb, Host.Outcome.next.injEq] at h
    exact ⟨rfl, h.symm⟩
  · right
    rcases hd : decode s.params x with e | i
    · simp only [step, fetch, hb, hd, reduceCtorEq] at h
    · simp only [step, fetch, hb, hd] at h
      exact ⟨x, xs, i, rfl, hd, h⟩

end Sys2Proof.Machine
end

