-- ==== Sys2Proof/Laws/PerInstr.lean ====
section
/-! SUPPORT. A statement per instruction about its encoding: the input event that `encode` writes has the format of the
instruction's row in spec/opcode_table.json, and its bits under the row's mask are the row's match. The table's
rows hold the defaults of the parameters (R8), so the statements are about these. -/

namespace Sys2Proof.Laws

/-- The four formats of spec/opcode_table.json (R89, R91). -/
inductive Format where
  | bus
  | cmd
  | cdb0
  | event
  deriving DecidableEq, Repr

/-- What a row of the table says of its bits. -/
structure Row where
  format : Format
  mask : BitVec 8
  pattern : BitVec 8
  deriving DecidableEq, Repr

/-- The rows, copied from spec/opcode_table.json. -/
def row : Instr → Row
  | .rdReg0 => ⟨.bus, 0x1F, 0x01⟩
  | .rdReg1 => ⟨.bus, 0x1F, 0x02⟩
  | .rdReg2 => ⟨.bus, 0x1F, 0x05⟩
  | .rdReg3 => ⟨.bus, 0x1F, 0x06⟩
  | .rdReg4 => ⟨.bus, 0x1F, 0x09⟩
  | .rdReg5 => ⟨.bus, 0x1F, 0x0A⟩
  | .rdReg6 => ⟨.bus, 0x1F, 0x0D⟩
  | .rdReg7 => ⟨.bus, 0x1F, 0x0E⟩
  | .wrDl _ => ⟨.bus, 0x1F, 0x11⟩
  | .wrReg1 _ => ⟨.bus, 0x1F, 0x12⟩
  | .wrReg2 _ => ⟨.bus, 0x1F, 0x15⟩
  | .wrReg3 _ => ⟨.bus, 0x1F, 0x16⟩
  | .wrReg4 _ => ⟨.bus, 0x1F, 0x19⟩
  | .wrReg5 _ => ⟨.bus, 0x1F, 0x1A⟩
  | .wrReg6 _ => ⟨.bus, 0x1F, 0x1D⟩
  | .wrCmd _ => ⟨.bus, 0x1F, 0x1E⟩
  | .rdWide _ => ⟨.bus, 0x13, 0x03⟩
  | .wrWide _ _ => ⟨.bus, 0x13, 0x13⟩
  | .nopAccess _ _ => ⟨.bus, 0x03, 0x00⟩
  | .packet => ⟨.cmd, 0xFF, 0xA0⟩
  | .identifyPacketDevice => ⟨.cmd, 0xFF, 0xA1⟩
  | .setFeatures => ⟨.cmd, 0xFF, 0xEF⟩
  | .cmdUnrecognised _ => ⟨.cmd, 0x00, 0x00⟩
  | .cdbTestUnitReadyBusReset _ => ⟨.cdb0, 0xFF, 0x00⟩
  | .cdbPlay _ => ⟨.cdb0, 0xFF, 0x45⟩
  | .cdbModeSelect _ => ⟨.cdb0, 0xFF, 0x55⟩
  | .cdbSetCdromSpeed _ => ⟨.cdb0, 0xFF, 0xBB⟩
  | .cdbGeneric _ _ => ⟨.cdb0, 0x00, 0x00⟩
  | .dmaReq _ => ⟨.event, 0x03, 0x00⟩
  | .dmaFire => ⟨.event, 0x03, 0x01⟩
  | .playFire => ⟨.event, 0x03, 0x02⟩
  | .resetLine _ => ⟨.event, 0x03, 0x03⟩

/-- The format of an input event and the bits the table numbers: the selector, the command byte, byte 0 of the packet or
the event number (R89, R91). -/
def rowBits : Input → Format × BitVec 8
  | .bus rw o m _ =>
    (.bus, (selectorOf rw (BitVec.ofNat 2 o) (laneDecode .activeHigh m).1 (laneDecode .activeHigh m).2).setWidth 8)
  | .cmd c => (.cmd, c)
  | .cdb c => (.cdb0, c.op)
  | .event n _ => (.event, n.setWidth 8)

/-- The encoding of an instruction, the parameters at their defaults, matches its row. -/
def MatchesRow.Statement (i : Instr) : Prop :=
  (rowBits (encode .default i)).1 = (row i).format ∧ (rowBits (encode .default i)).2 &&& (row i).mask = (row i).pattern

/-- The default of LANE_DECODE (R8, R70). -/
theorem default_laneDecode : Params.default.laneDecode = .activeHigh := rfl

/-- The bits of a bus access are its selector (R91). -/
theorem rowBits_busInput (sel : BitVec 5) (v : DWord) : rowBits (busInput .activeHigh sel v) = (.bus, sel.setWidth 8) := by
  have key : ∀ sel : BitVec 5,
      selectorOf (selectorDir sel) (BitVec.ofNat 2 (selectorOffset sel).toNat)
        (laneDecode .activeHigh (laneMaskOf .activeHigh (selectorLo sel) (selectorHi sel))).1
        (laneDecode .activeHigh (laneMaskOf .activeHigh (selectorLo sel) (selectorHi sel))).2 = sel := by decide
  simp only [rowBits, busInput, key]

theorem MatchesRow.rdReg0 : MatchesRow.Statement .rdReg0 := by
  simp only [Statement, encode, default_laneDecode, rowBits_busInput, row]; decide

theorem MatchesRow.rdReg1 : MatchesRow.Statement .rdReg1 := by
  simp only [Statement, encode, default_laneDecode, rowBits_busInput, row]; decide

theorem MatchesRow.rdReg2 : MatchesRow.Statement .rdReg2 := by
  simp only [Statement, encode, default_laneDecode, rowBits_busInput, row]; decide

theorem MatchesRow.rdReg3 : MatchesRow.Statement .rdReg3 := by
  simp only [Statement, encode, default_laneDecode, rowBits_busInput, row]; decide

theorem MatchesRow.rdReg4 : MatchesRow.Statement .rdReg4 := by
  simp only [Statement, encode, default_laneDecode, rowBits_busInput, row]; decide

theorem MatchesRow.rdReg5 : MatchesRow.Statement .rdReg5 := by
  simp only [Statement, encode, default_laneDecode, rowBits_busInput, row]; decide

theorem MatchesRow.rdReg6 : MatchesRow.Statement .rdReg6 := by
  simp only [Statement, encode, default_laneDecode, rowBits_busInput, row]; decide

theorem MatchesRow.rdReg7 : MatchesRow.Statement .rdReg7 := by
  simp only [Statement, encode, default_laneDecode, rowBits_busInput, row]; decide

theorem MatchesRow.wrDl (v : Byte) : MatchesRow.Statement (.wrDl v) := by
  simp only [Statement, encode, default_laneDecode, rowBits_busInput, row]; decide

theorem MatchesRow.wrReg1 (v : Byte) : MatchesRow.Statement (.wrReg1 v) := by
  simp only [Statement, encode, default_laneDecode, rowBits_busInput, row]; decide

theorem MatchesRow.wrReg2 (v : Byte) : MatchesRow.Statement (.wrReg2 v) := by
  simp only [Statement, encode, default_laneDecode, rowBits_busInput, row]; decide

theorem MatchesRow.wrReg3 (v : Byte) : MatchesRow.Statement (.wrReg3 v) := by
  simp only [Statement, encode, default_laneDecode, rowBits_busInput, row]; decide

theorem MatchesRow.wrReg4 (v : Byte) : MatchesRow.Statement (.wrReg4 v) := by
  simp only [Statement, encode, default_laneDecode, rowBits_busInput, row]; decide

theorem MatchesRow.wrReg5 (v : Byte) : MatchesRow.Statement (.wrReg5 v) := by
  simp only [Statement, encode, default_laneDecode, rowBits_busInput, row]; decide

theorem MatchesRow.wrReg6 (v : Byte) : MatchesRow.Statement (.wrReg6 v) := by
  simp only [Statement, encode, default_laneDecode, rowBits_busInput, row]; decide

theorem MatchesRow.wrCmd (c : Byte) : MatchesRow.Statement (.wrCmd c) := by
  simp only [Statement, encode, default_laneDecode, rowBits_busInput, row]; decide

theorem MatchesRow.rdWide (oo : BitVec 2) : MatchesRow.Statement (.rdWide oo) := by
  simp only [Statement, encode, default_laneDecode, rowBits_busInput, row]; revert oo; decide

theorem MatchesRow.wrWide (oo : BitVec 2) (w : Word) : MatchesRow.Statement (.wrWide oo w) := by
  simp only [Statement, encode, default_laneDecode, rowBits_busInput, row]; revert oo; decide

theorem MatchesRow.nopAccess (rw : Dir) (oo : BitVec 2) : MatchesRow.Statement (.nopAccess rw oo) := by
  cases rw <;> simp only [Statement, encode, default_laneDecode, rowBits_busInput, row] <;> revert oo <;> decide

theorem MatchesRow.packet : MatchesRow.Statement .packet :=
  ⟨rfl, by simp only [rowBits, encode, row]; decide⟩

theorem MatchesRow.identifyPacketDevice : MatchesRow.Statement .identifyPacketDevice :=
  ⟨rfl, by simp only [rowBits, encode, row]; decide⟩

theorem MatchesRow.setFeatures : MatchesRow.Statement .setFeatures :=
  ⟨rfl, by simp only [rowBits, encode, row]; decide⟩

theorem MatchesRow.cmdUnrecognised (c : Byte) : MatchesRow.Statement (.cmdUnrecognised c) :=
  ⟨rfl, BitVec.and_zero⟩

theorem MatchesRow.cdbTestUnitReadyBusReset (t : CdbTail) : MatchesRow.Statement (.cdbTestUnitReadyBusReset t) :=
  ⟨rfl, by simp only [rowBits, encode, row]; decide⟩

theorem MatchesRow.cdbPlay (t : CdbTail) : MatchesRow.Statement (.cdbPlay t) :=
  ⟨rfl, by simp only [rowBits, encode, row]; decide⟩

theorem MatchesRow.cdbModeSelect (t : CdbTail) : MatchesRow.Statement (.cdbModeSelect t) :=
  ⟨rfl, by simp only [rowBits, encode, row]; decide⟩

theorem MatchesRow.cdbSetCdromSpeed (t : CdbTail) : MatchesRow.Statement (.cdbSetCdromSpeed t) :=
  ⟨rfl, by simp only [rowBits, encode, row]; decide⟩

theorem MatchesRow.cdbGeneric (op : Byte) (t : CdbTail) : MatchesRow.Statement (.cdbGeneric op t) :=
  ⟨rfl, BitVec.and_zero⟩

theorem MatchesRow.dmaReq (a : DWord) : MatchesRow.Statement (.dmaReq a) :=
  ⟨rfl, by simp only [rowBits, encode, row]; decide⟩

theorem MatchesRow.dmaFire : MatchesRow.Statement .dmaFire :=
  ⟨rfl, by simp only [rowBits, encode, row]; decide⟩

theorem MatchesRow.playFire : MatchesRow.Statement .playFire :=
  ⟨rfl, by simp only [rowBits, encode, row]; decide⟩

theorem MatchesRow.resetLine (v : DWord) : MatchesRow.Statement (.resetLine v) :=
  ⟨rfl, by simp only [rowBits, encode, row]; decide⟩

end Sys2Proof.Laws
end

