-- ==== Sys2Proof/Laws/Trace.lean ====
section
/-! SUPPORT. What the counts of an output trace do on a longer trace, and on the traces that a staging and a DMA fire
add. -/

namespace Sys2Proof.Machine

@[simp] theorem effects_append (os ps : List Output) : effects (os ++ ps) = effects os ++ effects ps :=
  List.filter_append ..

@[simp] theorem irqCount_append (os ps : List Output) : irqCount (os ++ ps) = irqCount os + irqCount ps :=
  List.countP_append

@[simp] theorem busWords_append (os ps : List Output) : busWords (os ++ ps) = busWords os ++ busWords ps := by
  induction os with
  | nil => rfl
  | cons o os ih => cases o <;> simp [busWords, ih]

@[simp] theorem bytesRead_append (os ps : List Output) : bytesRead (os ++ ps) = bytesRead os + bytesRead ps := by
  induction os with
  | nil => simp [bytesRead]
  | cons o os ih => cases o <;> simp [bytesRead, ih, Nat.add_assoc]

/-- A staging reads the bytes of its sectors (R141). -/
@[simp] theorem bytesRead_map_readData (ns : List Nat) : bytesRead (ns.map .readData) = ns.sum := by
  induction ns with
  | nil => rfl
  | cons n ns ih => simp [bytesRead, ih]

/-- A staging hands no word to the host before its interrupt (R141). -/
@[simp] theorem busWords_map_readData (ns : List Nat) : busWords (ns.map .readData) = [] := by
  induction ns with
  | nil => rfl
  | cons n ns ih => simp [busWords, ih]

@[simp] theorem effects_map_readData (ns : List Nat) : effects (ns.map .readData) = ns.map .readData := by
  simp [effects, Output.isBusRead, List.filter_map, Function.comp_def]

/-- The writes of a sector are no device reads (R157). -/
@[simp] theorem filter_isReadData_memWrites (a : DWord) (vs : List DWord) :
    (memWrites a vs).filter Output.isReadData = [] := by
  induction vs generalizing a with
  | nil => rfl
  | cons v vs ih => simpa [memWrites, Output.isReadData] using ih (a + 4)

/-- The device reads of a DMA fire are those of its sectors (R157). -/
theorem filter_isReadData_burstTrace (k c : Nat) (a : DWord) (d : Device) (h : sectorCount c ≤ k) :
    (burstTrace k c a d).filter Output.isReadData = (sectorSizes c).map .readData := by
  induction k generalizing c a d with
  | zero =>
    have hc : c = 0 := by simp only [sectorCount, sectorSize] at h; omega
    subst hc; rfl
  | succ k ih =>
    by_cases hc : c = 0
    · subst hc; rfl
    · rw [sectorSizes_peel hc]
      simp only [burstTrace, hc, if_false, List.cons_append, List.filter_cons, Output.isReadData, if_true,
        List.filter_append, filter_isReadData_memWrites, List.nil_append, List.map_cons]
      rw [ih _ _ _ (by have := sectorCount_sub hc; omega)]

end Sys2Proof.Machine
end

