-- ==== Sys2Proof/Tests/Slice0.lean ====
section
/-! SUPPORT. The model's own tests: what WellFormed refuses, words written out from the spec's encodings, one step of
each instruction (expected values from 95_test_vectors.md), and for every statement with hypotheses a state that meets
them. -/

open Sys2Proof Sys2Proof.Machine

namespace Sys2Proof.Tests


/-! ### Small states -/

/-- A transfer of `n` bytes just announced, in sequencer state `q`, with the result stream `bs` (R123, R124). -/
def announced (q : Seq) (n : Nat) (bs : List Byte) : State :=
  { State.reset with
    st := 0x18, ir := 0x02, seq := q, chunkRemaining := min n 63488, totalRemaining := n - min n 63488
    dev := ⟨[], bs, 0, 0⟩ }

/-- A device that answers the next packet with `r`, before any command. -/
def answering (r : ExecResult) : State := { State.reset with dev := ⟨[⟨r, []⟩], [], 0, 0⟩ }

/-- A packet of five words so far, and a device that answers the sixth with `r` (R121). -/
def fiveWords (r : ExecResult) (w0 w4 : Word) : State :=
  { State.reset with
    st := 0x08, ir := 0x01, seq := .packetBuild, pkt := #v[w0, 0, 0, 0, w4, 0], pktCount := 5
    dev := ⟨[⟨r, []⟩], [], 0, 0⟩ }

/-- A MODE SELECT waiting for `m` words, with `ws` so far (R129, R132). -/
def waiting (m : Nat) (ws : List Word) : State :=
  { State.reset with st := 0x18, seq := .modeParamWait, modeExpect := m, modeBuf := ws }

/-- The next state, where there is one. -/
def nextOf (o : Host.Outcome State Fault Refusal) : Option State :=
  match o with
  | .next t => some t
  | .fault _ => none
  | .refused _ => none

/-- The refusal, where there is one. -/
def refusalIn (o : Host.Outcome State Fault Refusal) : Option Refusal :=
  match o with
  | .next _ => none
  | .fault _ => none
  | .refused r => some r

/-- The registers in the order of their numbers. -/
def regs (s : State) : List Byte := [s.dl, s.err, s.ir, s.sc, s.bcl, s.bch, s.ds, s.st]


/-! ### WellFormed refuses an "otherwise" row that holds a specific value (R91) -/

/-- The command byte 0xA0 has a row of its own (R79). -/
theorem test_wf_refuses_packet_as_unrecognised :
    (Instr.cmdUnrecognised 0xA0).wf .default = false := by decide

/-- The command byte 0xA1 has a row of its own (R79). -/
theorem test_wf_refuses_identify_as_unrecognised :
    (Instr.cmdUnrecognised 0xA1).wf .default = false := by decide

/-- The command byte 0xEF has a row of its own (R79). -/
theorem test_wf_refuses_set_features_as_unrecognised :
    (Instr.cmdUnrecognised 0xEF).wf .default = false := by decide

/-- The operation code 0x00 has a row of its own (R81). -/
theorem test_wf_refuses_test_unit_ready_as_generic :
    (Instr.cdbGeneric 0x00 zeroTail).wf .default = false := by decide

/-- The operation code 0x45 has a row of its own (R81). -/
theorem test_wf_refuses_play_as_generic :
    (Instr.cdbGeneric 0x45 zeroTail).wf .default = false := by decide

/-- The operation code 0x55 has a row of its own (R81). -/
theorem test_wf_refuses_mode_select_as_generic :
    (Instr.cdbGeneric 0x55 zeroTail).wf .default = false := by decide

/-- The operation code 0xBB has a row of its own (R81). -/
theorem test_wf_refuses_set_cdrom_speed_as_generic :
    (Instr.cdbGeneric 0xBB zeroTail).wf .default = false := by decide

/-- A command byte and an operation code with no row of their own (R79, R81). -/
theorem test_wf_accepts_the_otherwise_rows :
    (Instr.cmdUnrecognised 0x08).wf .default = true ∧ (Instr.cdbGeneric 0x28 zeroTail).wf .default = true := by decide


/-! ### Decoding: words written out from 30_encoding.md -/

/-- Byte reads: even registers in the low half, odd ones in the high half, at the doubled offset (R72). -/
theorem test_decode_byte_reads :
    decode .default (.bus .read 0 0x000000FF 0) = .ok .rdReg0 ∧ decode .default (.bus .read 0 0x00FF0000 0) = .ok .rdReg1 ∧
    decode .default (.bus .read 1 0x0000FFFF 0) = .ok .rdReg2 ∧ decode .default (.bus .read 1 0xFFFF0000 0) = .ok .rdReg3 ∧
    decode .default (.bus .read 2 0x00000001 0) = .ok .rdReg4 ∧ decode .default (.bus .read 2 0x80000000 0) = .ok .rdReg5 ∧
    decode .default (.bus .read 3 0x0000FFFF 0) = .ok .rdReg6 ∧ decode .default (.bus .read 3 0xFFFF0000 0) = .ok .rdReg7 :=
  ⟨rfl, rfl, rfl, rfl, rfl, rfl, rfl, rfl⟩

/-- Byte writes: the byte is value32[7:0] or value32[23:16], every other bit is ignored (R73). -/
theorem test_decode_byte_writes :
    decode .default (.bus .write 0 0x0000FFFF 0xFFFFFF5A) = .ok (.wrDl 0x5A) ∧
    decode .default (.bus .write 0 0xFFFF0000 0xFF03FFFF) = .ok (.wrReg1 0x03) ∧
    decode .default (.bus .write 1 0x0000FFFF 0x00000081) = .ok (.wrReg2 0x81) ∧
    decode .default (.bus .write 1 0xFFFF0000 0x007F0000) = .ok (.wrReg3 0x7F) ∧
    decode .default (.bus .write 2 0x0000FFFF 0xFFFF1234) = .ok (.wrReg4 0x34) ∧
    decode .default (.bus .write 2 0xFFFF0000 0x80010000) = .ok (.wrReg5 0x01) ∧
    decode .default (.bus .write 3 0x0000FFFF 0x00000010) = .ok (.wrReg6 0x10) ∧
    decode .default (.bus .write 3 0xFFFF0000 0x00A00000) = .ok (.wrCmd 0xA0) :=
  ⟨rfl, rfl, rfl, rfl, rfl, rfl, rfl, rfl⟩

/-- Wide and empty accesses at any offset; the Data word is value32[15:0] (R71, R74). -/
theorem test_decode_wide_and_empty :
    decode .default (.bus .read 0 0xFFFFFFFF 0) = .ok (.rdWide 0) ∧ decode .default (.bus .read 3 0x00010001 0) = .ok (.rdWide 3) ∧
    decode .default (.bus .write 2 0xFFFFFFFF 0xABCD0028) = .ok (.wrWide 2 0x0028) ∧
    decode .default (.bus .write 3 0 0x00A00000) = .ok (.nopAccess .write 3) ∧ decode .default (.bus .read 1 0 0) = .ok (.nopAccess .read 1) :=
  ⟨rfl, rfl, rfl, rfl, rfl⟩

/-- An offset of 4 decodes to nothing (R51). -/
theorem test_decode_offset_outside :
    decode .default (.bus .read 4 0xFFFFFFFF 0) = .error (.offsetOutside 4) := rfl

/-- The command bytes (R79). -/
theorem test_decode_commands :
    decode .default (.cmd 0b10100000) = .ok .packet ∧ decode .default (.cmd 0b10100001) = .ok .identifyPacketDevice ∧
    decode .default (.cmd 0b11101111) = .ok .setFeatures ∧ decode .default (.cmd 0b00001000) = .ok (.cmdUnrecognised 0x08) :=
  ⟨rfl, rfl, rfl, rfl⟩

/-- The operation codes in byte 0 of the packet (R81). -/
theorem test_decode_packets :
    decode .default (.cdb ⟨0b00000000, zeroTail⟩) = .ok (.cdbTestUnitReadyBusReset zeroTail) ∧
    decode .default (.cdb ⟨0b01000101, zeroTail⟩) = .ok (.cdbPlay zeroTail) ∧
    decode .default (.cdb ⟨0b01010101, zeroTail⟩) = .ok (.cdbModeSelect zeroTail) ∧
    decode .default (.cdb ⟨0b10111011, zeroTail⟩) = .ok (.cdbSetCdromSpeed zeroTail) ∧
    decode .default (.cdb ⟨0x28, zeroTail⟩) = .ok (.cdbGeneric 0x28 zeroTail) := ⟨rfl, rfl, rfl, rfl, rfl⟩

/-- The event numbers (R89). -/
theorem test_decode_events :
    decode .default (.event 0b00 0x1000) = .ok (.dmaReq 0x1000) ∧ decode .default (.event 0b01 0) = .ok .dmaFire ∧
    decode .default (.event 0b10 0) = .ok .playFire ∧ decode .default (.event 0b11 5) = .ok (.resetLine 5) :=
  ⟨rfl, rfl, rfl, rfl⟩

/-- Rows of spec/opcode_table.json in a whole byte: selectors, command bytes, operation codes. -/
theorem test_table_words :
    decodeTableWord 8 0x0E = some .rdReg7 ∧ decodeTableWord 8 0x11 = some (.wrDl 0) ∧
    decodeTableWord 8 0x13 = some (.wrWide 0 0) ∧ decodeTableWord 8 0xA1 = some .identifyPacketDevice ∧
    decodeTableWord 8 0x45 = some (.cdbPlay zeroTail) ∧ decodeTableWord 8 0xEC = some (.cmdUnrecognised 0xEC) ∧
    decodeTableWord 2 3 = some (.resetLine 0) := by decide

/-- `step` fetches and runs the placed instruction: SET FEATURES, and a fire whose timer placing it has armed. -/
theorem test_step_runs_the_placed_word :
    (nextOf (step (State.reset.withFetchWord 8 0xEF))).map (fun t => (t.bcl, irqCount t.out, t.inbox)) =
      some (0x14, 1, []) ∧
    (nextOf (step (State.reset.withFetchWord 2 1))).map (fun t => (t.st, t.bch)) = some (0x40, 0x00) := by decide

/-- A platform with active-low masks, and one whose masks are a table: each is a value of the parameter (R8, R70). -/
theorem test_lane_decode_parameter :
    laneDecode .activeLow 0xFFFF0000 = (true, false) ∧ laneDecode .activeLow 0xFFFFFFFF = (false, false) ∧
    laneDecode (.table [(3, true, true), (1, true, false)]) 3 = (true, true) ∧
    laneDecode (.table [(3, true, true), (1, true, false)]) 7 = (false, false) ∧
    lanesEncodable .activeLow = true ∧ lanesEncodable (.table [(1, true, false)]) = false := by decide

/-- Other values of the parameters: another PACKET byte, DRQ in another bit, another length field (R8). -/
theorem test_other_parameters :
    decode { Params.default with cmdPacket := 0xB0 } (.cmd 0xB0) = .ok .packet ∧
    decode { Params.default with cmdPacket := 0xB0 } (.cmd 0xA0) = .ok (.cmdUnrecognised 0xA0) ∧
    (nextOf (exec .packet { State.reset with params := { Params.default with stDrq := 0x02 } })).map State.st = some 0x02 ∧
    modeSelectLen (.table [(⟨0x55, zeroTail⟩, 12)]) ⟨0x55, zeroTail⟩ = 12 := ⟨rfl, rfl, by decide, by decide⟩

/-- Masks that share a bit, and a PACKET byte of another command, break the constraint (R8). -/
theorem test_params_wf :
    Params.default.wf = true ∧ { Params.default with stDrq := 0x10 }.wf = false ∧
    { Params.default with irIo := 0x03 }.wf = false ∧ { Params.default with cmdPacket := 0xA1 }.wf = false :=
  by decide


/-! ### One step each, from 95_test_vectors.md -/

/-- V40.1: register 0 after construction. -/
theorem test_rdReg0 :
    (nextOf (exec .rdReg0 State.reset)).map State.out = some [.busRead 0x00000000] := by decide

/-- V40.1: register 1 after construction. -/
theorem test_rdReg1 :
    (nextOf (exec .rdReg1 State.reset)).map State.out = some [.busRead 0x00010000] := by decide

/-- V40.1: register 2 after construction. -/
theorem test_rdReg2 :
    (nextOf (exec .rdReg2 State.reset)).map State.out = some [.busRead 0x00000000] := by decide

/-- V40.1: register 3 after construction. -/
theorem test_rdReg3 :
    (nextOf (exec .rdReg3 State.reset)).map State.out = some [.busRead 0x00000000] := by decide

/-- V40.1: register 4 after construction. -/
theorem test_rdReg4 :
    (nextOf (exec .rdReg4 State.reset)).map State.out = some [.busRead 0x00000014] := by decide

/-- V40.1: register 5 after construction. -/
theorem test_rdReg5 :
    (nextOf (exec .rdReg5 State.reset)).map State.out = some [.busRead 0x00EB0000] := by decide

/-- V40.1: register 6 after construction. -/
theorem test_rdReg6 :
    (nextOf (exec .rdReg6 State.reset)).map State.out = some [.busRead 0x00000000] := by decide

/-- V40.1: register 7 after construction. -/
theorem test_rdReg7 :
    (nextOf (exec .rdReg7 State.reset)).map State.out = some [.busRead 0x00000000] := by decide

/-- A byte read of an odd register lands in bits 23:16, of an even one in bits 7:0 (R73). -/
theorem test_byte_read_lanes :
    (nextOf (exec .rdReg3 { State.reset with sc := 0x7F })).map State.out = some [.busRead 0x007F0000] ∧
    (nextOf (exec .rdReg6 { State.reset with ds := 0xB0 })).map State.out = some [.busRead 0x000000B0] := by decide

/-- V40.2 to V40.7: one register stored, the others kept. -/
theorem test_wrDl :
    (nextOf (exec (.wrDl 0xA5) State.reset)).map regs = some [0xA5, 0x01, 0x00, 0x00, 0x14, 0xEB, 0x00, 0x00] :=
  by decide

/-- V40.2 to V40.7: one register stored, the others kept. -/
theorem test_wrReg1 :
    (nextOf (exec (.wrReg1 0xA5) State.reset)).map regs = some [0x00, 0xA5, 0x00, 0x00, 0x14, 0xEB, 0x00, 0x00] :=
  by decide

/-- V40.2 to V40.7: one register stored, the others kept. -/
theorem test_wrReg2 :
    (nextOf (exec (.wrReg2 0xA5) State.reset)).map regs = some [0x00, 0x01, 0xA5, 0x00, 0x14, 0xEB, 0x00, 0x00] :=
  by decide

/-- V40.2 to V40.7: one register stored, the others kept. -/
theorem test_wrReg3 :
    (nextOf (exec (.wrReg3 0xA5) State.reset)).map regs = some [0x00, 0x01, 0x00, 0xA5, 0x14, 0xEB, 0x00, 0x00] :=
  by decide

/-- V40.2 to V40.7: one register stored, the others kept. -/
theorem test_wrReg4 :
    (nextOf (exec (.wrReg4 0xA5) State.reset)).map regs = some [0x00, 0x01, 0x00, 0x00, 0xA5, 0xEB, 0x00, 0x00] :=
  by decide

/-- V40.2 to V40.7: one register stored, the others kept. -/
theorem test_wrReg5 :
    (nextOf (exec (.wrReg5 0xA5) State.reset)).map regs = some [0x00, 0x01, 0x00, 0x00, 0x14, 0xA5, 0x00, 0x00] :=
  by decide

/-- V40.2 to V40.7: one register stored, the others kept. -/
theorem test_wrReg6 :
    (nextOf (exec (.wrReg6 0xA5) State.reset)).map regs = some [0x00, 0x01, 0x00, 0x00, 0x14, 0xEB, 0xA5, 0x00] :=
  by decide

/-- V41.1 and V41.5: the byte is a command, not a store. -/
theorem test_wrCmd :
    (nextOf (exec (.wrCmd 0xA0) State.reset)).map (fun t => (t.st, t.ir, t.seq)) = some (0x08, 0x01, .packetBuild) ∧
    (nextOf (exec (.wrCmd 0x08) State.reset)) = some State.reset := by decide

/-- V40.5: an empty access. -/
theorem test_nopAccess :
    (nextOf (exec (.nopAccess .read 3) State.reset)).map State.out = some [.busRead 0] ∧
    nextOf (exec (.nopAccess .write 3) State.reset) = some State.reset := by decide

/-- V43.1: one word, staged, announced, popped and completed by one read. -/
theorem test_rdWide_one_word :
    (nextOf (exec (.rdWide 0) (announced .dataWait 2 [0xAA, 0xBB]))).map
        (fun t => (regs t, t.seq, irqCount t.out, busWords t.out)) =
      some ([0x00, 0x01, 0x02, 0x00, 0x00, 0x00, 0x00, 0x10], .complete, 2, [0x0000BBAA]) := by decide

/-- V43.3: three bytes are two words, the last padded with 0. -/
theorem test_rdWide_odd_length :
    (nextOf (exec (.rdWide 2) (announced .dataWait 3 [0x11, 0x22, 0x33]))).map
        (fun t => (t.st, t.ir, t.seq, t.rb, busWords t.out)) =
      some (0x10, 0x03, .dataPio, [0x2211, 0x0033], [0x00002211]) := by decide

/-- V40.9: the word is appended. -/
theorem test_wrWide_packet_word :
    (nextOf (exec (.wrWide 2 0x0028) { State.reset with seq := .packetBuild })).map (fun t => (t.pkt[0], t.pktCount)) =
      some (0x0028, 1) := by decide

/-- V42.9: the fourth word completes the parameter list; SERVICE_DSC stays. -/
theorem test_wrWide_last_parameter_word :
    (nextOf (exec (.wrWide 0 0x1234) (waiting 4 [0x0600, 0, 0]))).map
        (fun t => (t.st, t.seq, irqCount t.out, t.out.head?)) =
      some (0x10, .ready, 1, some (.writeData 8 [0x00, 0x06, 0x00, 0x00, 0x00, 0x00, 0x34, 0x12])) := by decide

/-- V41.2: CHECK is cleared, the error code stays. -/
theorem test_packet :
    (nextOf (exec .packet { State.reset with st := 0x09, err := 0x50, chunkRemaining := 5 })).map
        (fun t => (t.st, t.ir, t.err, t.seq, t.chunkRemaining)) = some (0x08, 0x01, 0x50, .packetBuild, 0) :=
  by decide

/-- V41.3: DRQ, the pair 0x0200, one interrupt, InterruptReason kept. -/
theorem test_identify :
    (nextOf (exec .identifyPacketDevice State.reset)).map (fun t => (regs t, t.readPointer, t.seq, irqCount t.out)) =
      some ([0x00, 0x01, 0x00, 0x00, 0x00, 0x02, 0x00, 0x08], 0, .dataPio, 1) := by decide

/-- V41.3: the 256 words of the identify block are staged. -/
theorem test_identify_staging :
    (nextOf (exec .identifyPacketDevice State.reset)).map State.rb = some ((List.range 256).map Config.identifyWord) :=
  rfl

/-- V41.4: status 0, one interrupt, the Feature value stays. -/
theorem test_setFeatures :
    (nextOf (exec .setFeatures { State.reset with st := 0x40, err := 0x03 })).map
        (fun t => (t.st, t.err, t.seq, irqCount t.out)) = some (0x00, 0x03, .ready, 1) := by decide

/-- V41.5: nothing changes. -/
theorem test_cmdUnrecognised :
    nextOf (exec (.cmdUnrecognised 0xEC) State.reset) = some State.reset := by decide

/-- V42.4: status forced to 0. -/
theorem test_cdbTestUnitReady :
    (nextOf (exec (.cdbTestUnitReadyBusReset zeroTail) (answering (.count 0)))).map
        (fun t => (t.st, t.ir, t.seq, irqCount t.out)) = some (0x00, 0x03, .complete, 1) := by decide

/-- V42.7: BUSY and the PLAY timer. -/
theorem test_cdbPlay :
    (nextOf (exec (.cdbPlay zeroTail) (answering (.count 0)))).map
        (fun t => (t.st, t.ir, t.seq, irqCount t.out, decide (t.playTimer = .idle))) =
      some (0x80, 0x03, .complete, 1, false) := rfl

/-- V42.8: a rejected PLAY arms nothing. -/
theorem test_cdbPlay_rejected :
    (nextOf (exec (.cdbPlay zeroTail) (answering .error))).map
        (fun t => (regs t, t.playTimer, t.out)) =
      some ([0x00, 0x50, 0x01, 0x00, 0x00, 0x00, 0x00, 0x09], .idle, [.exec ⟨0x45, zeroTail⟩]) := by decide

/-- V42.12: a length of 9 expects 4 words. -/
theorem test_cdbModeSelect :
    (nextOf (exec (.cdbModeSelect { zeroTail with b8 := 0x09 }) (answering (.count 0)))).map
        (fun t => (t.st, t.seq, t.modeExpect)) = some (0x40, .modeParamWait, 4) := by decide

/-- V42.11 and V42.13: lengths of 1 and 65535. -/
theorem test_cdbModeSelect_ends :
    (nextOf (exec (.cdbModeSelect { zeroTail with b8 := 0x01 }) (answering (.count 0)))).map
        (fun t => (t.seq, t.modeExpect)) = some (.complete, 0) ∧
    (nextOf (exec (.cdbModeSelect { zeroTail with b7 := 0xFF, b8 := 0xFF }) (answering (.count 0)))).map
        (fun t => (t.seq, t.modeExpect)) = some (.modeParamWait, 32767) := by decide

/-- V42.6: status forced to 0. -/
theorem test_cdbSetCdromSpeed :
    (nextOf (exec (.cdbSetCdromSpeed { zeroTail with b2 := 0xFF, b3 := 0xFF }) (answering (.count 0)))).map
        (fun t => (t.st, t.ir, t.seq)) = some (0x00, 0x03, .complete) := by decide

/-- V42.1: 63489 and 100000 bytes are clipped. -/
theorem test_cdbGeneric :
    (nextOf (exec (.cdbGeneric 0x28 zeroTail) (answering (.count 63489)))).map
        (fun t => (t.chunkRemaining, t.totalRemaining, regs t, t.seq)) =
      some (63488, 1, [0x00, 0x01, 0x02, 0x00, 0x00, 0xF8, 0x00, 0x18], .dataWait) ∧
    (nextOf (exec (.cdbGeneric 0x28 zeroTail) (answering (.count 100000)))).map
        (fun t => (t.chunkRemaining, t.totalRemaining)) = some (63488, 36512) := by decide

/-- V42.2: the CDB is the words' bytes, low byte first. -/
theorem test_sixth_word_dispatches :
    (nextOf (exec (.wrWide 0 0x7856) { fiveWords (.count 0) 0 0 with
        pkt := #v[0x2301, 0x6745, 0xAB89, 0xEFCD, 0x3412, 0] })).map (fun t => (t.out.head?, t.pktCount)) =
      some (some (.exec ⟨0x01, ⟨0x23, 0x45, 0x67, 0x89, 0xAB, 0xCD, 0xEF, 0x12, 0x34, 0x56, 0x78⟩⟩), 0) := by decide

/-- V44.1 and V44.12: the address is latched, DATA_WAIT becomes DATA_DMA. -/
theorem test_dmaReq :
    (nextOf (exec (.dmaReq 0x00100000) (announced .dataWait 4096 []))).map (fun t => (t.dmaDest, t.seq, t.st)) =
      some (0x00100000, .dataDma, 0x18) := by decide

/-- V44.3 and V44.4: a misaligned address, and a request in DATA_PIO. -/
theorem test_dmaReq_refused :
    refusalIn (exec (.dmaReq 0x1002) (announced .dataWait 4096 [])) = some (.misalignedDestination 0x1002) ∧
    refusalIn (exec (.dmaReq 0x1000) (announced .dataPio 4096 [])) = some .burstRequestDuringPio := by decide

/-- V44.2 and V44.6: two words, the last padded, over the top of the address space. -/
theorem test_dmaFire :
    (nextOf (exec .dmaFire { announced .dataDma 6 [1, 2, 3, 4, 5, 6] with
        dmaDest := 0xFFFFFFFC, dmaTimer := .pending 0 })).map
        (fun t => (t.mem, t.dmaDest, t.st, t.ir, t.seq)) =
      some ([(0, 5), (1, 6), (2, 0), (3, 0), (0xFFFFFFFC, 1), (0xFFFFFFFD, 2), (0xFFFFFFFE, 3), (0xFFFFFFFF, 4)], 4, 0x40,
        0x03, .complete) := by decide

/-- V44.5: a stale fire moves nothing and keeps the sequencer state. -/
theorem test_dmaFire_stale :
    (nextOf (exec .dmaFire { State.reset with dmaTimer := .pending 0 })).map
        (fun t => (regs t, t.seq, t.mem, irqCount t.out)) =
      some ([0x00, 0x01, 0x03, 0x00, 0x00, 0x00, 0x00, 0x40], .ready, [], 1) := by decide

/-- V44.11 and R162: an idle timer cannot fire. -/
theorem test_idle_fires_refused :
    refusalIn (exec .dmaFire State.reset) = some .dmaTimerIdle ∧
    refusalIn (exec .playFire State.reset) = some .playTimerIdle := by decide

/-- V42.7: the PLAY completion. -/
theorem test_playFire :
    (nextOf (exec .playFire { State.reset with st := 0x80, playTimer := .pending 7 })).map
        (fun t => (t.st, t.ir, t.playTimer, irqCount t.out)) = some (0x40, 0x03, .idle, 1) := by decide

/-- V70.2 and V70.4: an edge resets four registers and keeps the latches, a level does nothing. -/
theorem test_resetLine :
    (nextOf (exec (.resetLine 1) { State.reset with dl := 0x11, err := 0x77, sc := 0x22, ds := 0x33, ir := 3 })).map regs =
      some [0x11, 0x01, 0x03, 0x22, 0x14, 0xEB, 0x33, 0x00] ∧
    (nextOf (exec (.resetLine 2) { State.reset with err := 0x77, resetPrev := true })).map regs =
      some [0x00, 0x77, 0x00, 0x00, 0x14, 0xEB, 0x00, 0x00] := by decide

/-- V43.11: a wide read in DATA_DMA is refused. -/
theorem test_rdWide_refused :
    refusalIn (exec (.rdWide 0) (announced .dataDma 4096 [])) = some .wideReadDuringDma := by decide


/-! ### For every statement with hypotheses, values that meet them: one witness for each clause -/

/-- A state whose next input event is `x`. -/
def holding (x : Input) : State := { State.reset with inbox := [x] }

theorem witness_DecodeInvertsEncode :
    Params.default.wf = true ∧ lanesEncodable Params.default.laneDecode = true ∧
    (Instr.cmdUnrecognised 0xFF).wf .default = true ∧ (Instr.cdbGeneric 0x01 zeroTail).wf .default = true := by decide

theorem witness_DecodedInstructionsAreWellFormed :
    decode .default (.cmd 0xFF) = .ok (.cmdUnrecognised 0xFF) ∧ decode .default (.bus .read 3 0 0) = .ok (.nopAccess .read 3) :=
  ⟨rfl, rfl⟩

theorem witness_OnlyOffsetsZeroToThreeDecode :
    (0 < 4 ∧ 3 < 4) ∧ 4 ≤ 4 ∧ (holding (.bus .read 4 0 0)).inbox = .bus .read 4 0 0 :: [] := by decide

theorem witness_StepRunsTheDecodedInstruction :
    (holding (.cmd 0xEF)).inbox = .cmd 0xEF :: [] ∧ decode State.reset.params (.cmd 0xEF) = .ok .setFeatures :=
  ⟨rfl, rfl⟩

theorem witness_IdleBlockDoesNothing :
    State.reset.inbox = [] := by decide

theorem witness_ResetValuesAreThoseOfTheTable :
    (1 : DWord) ≠ 0 ∧ State.reset.resetPrev = false := by decide

theorem witness_ResetLineActsOnTheEdgeOnly :
    ((1 : DWord) ≠ 0 ∧ State.reset.resetPrev = false) ∧
    ((0xFFFFFFFF : DWord) ≠ 0 ∧ { State.reset with resetPrev := true }.resetPrev = true) ∧ (0 : DWord) = 0 :=
  by decide

theorem witness_ResetTwiceIsResetOnce :
    (1 : DWord) ≠ 0 ∧ (0x80000000 : DWord) ≠ 0 ∧ State.reset.resetPrev = false := by decide

theorem witness_BusByteReadSelectsByOffsetAndHalf :
    (0 < 4 ∧ laneDecode .activeHigh 0x00000001 = (!false, false) ∧
      (holding (.bus .read 0 0x00000001 0)).inbox = .bus .read 0 0x00000001 0 :: []) ∧
    (3 < 4 ∧ laneDecode .activeHigh 0x80000000 = (!true, true) ∧
      (holding (.bus .read 3 0x80000000 0)).inbox = .bus .read 3 0x80000000 0 :: []) := by decide

theorem witness_BusByteWriteStoresItsLane :
    (0 < 4 ∧ laneDecode .activeHigh 0x0000FFFF = (!false, false) ∧ 2 * 0 + false.toNat ≠ 7 ∧
      (holding (.bus .write 0 0x0000FFFF 5)).inbox = .bus .write 0 0x0000FFFF 5 :: []) ∧
    (3 < 4 ∧ laneDecode .activeHigh 0x0000FFFF = (!false, false) ∧ 2 * 3 + false.toNat ≠ 7 ∧
      (holding (.bus .write 3 0x0000FFFF 5)).inbox = .bus .write 3 0x0000FFFF 5 :: []) ∧
    (2 < 4 ∧ laneDecode .activeHigh 0xFFFF0000 = (!true, true) ∧ 2 * 2 + true.toNat ≠ 7 ∧
      (holding (.bus .write 2 0xFFFF0000 5)).inbox = .bus .write 2 0xFFFF0000 5 :: []) := by decide

theorem witness_UnrecognisedCommandChangesNothing :
    ((0x9F : Byte) ≠ Params.default.cmdPacket ∧ (0x9F : Byte) ≠ 0xA1 ∧ (0x9F : Byte) ≠ 0xEF) ∧
    ((0xF0 : Byte) ≠ Params.default.cmdPacket ∧ (0xF0 : Byte) ≠ 0xA1 ∧ (0xF0 : Byte) ≠ 0xEF) := by decide

theorem witness_CommandWriteRunsItsCommand :
    State.reset.params.wf = true ∧ (0xA0 : Byte) = State.reset.params.cmdPacket ∧
    (0xA2 : Byte) ≠ State.reset.params.cmdPacket ∧ (0xA2 : Byte) ≠ 0xA1 ∧ (0xA2 : Byte) ≠ 0xEF := by decide

theorem witness_PacketWordsOneToFiveAreAppended :
    (0 < 5 ∧ { State.reset with seq := .packetBuild }.seq = .packetBuild) ∧
    ({ fiveWords .error 0 0 with pktCount := 4 }.pktCount < 5 ∧ { fiveWords .error 0 0 with pktCount := 4 }.seq = .packetBuild) :=
  by decide

theorem witness_SixthWordRejectedByTheDevice :
    ∃ (s : State) (w0 w1 w2 w3 w4 w5 x : Word) (c : Cdb), s.seq = .packetBuild ∧ s.pktCount = 5 ∧
      s.pkt = #v[w0, w1, w2, w3, w4, x] ∧
      c = ⟨w0.extractLsb' 0 8,
        ⟨w0.extractLsb' 8 8, w1.extractLsb' 0 8, w1.extractLsb' 8 8, w2.extractLsb' 0 8, w2.extractLsb' 8 8,
          w3.extractLsb' 0 8, w3.extractLsb' 8 8, w4.extractLsb' 0 8, w4.extractLsb' 8 8, w5.extractLsb' 0 8,
          w5.extractLsb' 8 8⟩⟩ ∧
      (s.dev.exec c).1 = .error :=
  ⟨fiveWords .error 0x0028 7, 0x0028, 0, 0, 0, 7, 9, 0, _, by decide, by decide, by decide, rfl, by decide⟩

theorem witness_SixthWordAcceptedByTheDevice :
    ∃ (s : State) (w0 w1 w2 w3 w4 w5 x : Word) (c : Cdb), s.seq = .packetBuild ∧ s.pktCount = 5 ∧
      s.pkt = #v[w0, w1, w2, w3, w4, x] ∧
      c = ⟨w0.extractLsb' 0 8,
        ⟨w0.extractLsb' 8 8, w1.extractLsb' 0 8, w1.extractLsb' 8 8, w2.extractLsb' 0 8, w2.extractLsb' 8 8,
          w3.extractLsb' 0 8, w3.extractLsb' 8 8, w4.extractLsb' 0 8, w4.extractLsb' 8 8, w5.extractLsb' 0 8,
          w5.extractLsb' 8 8⟩⟩ ∧
      (s.dev.exec c).1 = .count 0 ∧ c.op = 0x00 ∧ c.op ≠ 0x55 :=
  ⟨fiveWords (.count 0) 0x0000 7, 0x0000, 0, 0, 0, 7, 9, 0, _, by decide, by decide, by decide, rfl, by decide⟩

theorem witness_SixthWordAcceptedByTheDevice_speed :
    ∃ (s : State) (w0 w1 w2 w3 w4 w5 x : Word) (c : Cdb), s.seq = .packetBuild ∧ s.pktCount = 5 ∧
      s.pkt = #v[w0, w1, w2, w3, w4, x] ∧
      c = ⟨w0.extractLsb' 0 8,
        ⟨w0.extractLsb' 8 8, w1.extractLsb' 0 8, w1.extractLsb' 8 8, w2.extractLsb' 0 8, w2.extractLsb' 8 8,
          w3.extractLsb' 0 8, w3.extractLsb' 8 8, w4.extractLsb' 0 8, w4.extractLsb' 8 8, w5.extractLsb' 0 8,
          w5.extractLsb' 8 8⟩⟩ ∧
      (s.dev.exec c).1 = .count 63489 ∧ c.op = 0xBB :=
  ⟨fiveWords (.count 63489) 0xFFBB 7, 0xFFBB, 0, 0, 0, 7, 9, 0, _, by decide, by decide, by decide, rfl, by decide⟩

theorem witness_SixthWordAcceptedByTheDevice_play :
    ∃ (s : State) (w0 w1 w2 w3 w4 w5 x : Word) (c : Cdb), s.seq = .packetBuild ∧ s.pktCount = 5 ∧
      s.pkt = #v[w0, w1, w2, w3, w4, x] ∧
      c = ⟨w0.extractLsb' 0 8,
        ⟨w0.extractLsb' 8 8, w1.extractLsb' 0 8, w1.extractLsb' 8 8, w2.extractLsb' 0 8, w2.extractLsb' 8 8,
          w3.extractLsb' 0 8, w3.extractLsb' 8 8, w4.extractLsb' 0 8, w4.extractLsb' 8 8, w5.extractLsb' 0 8,
          w5.extractLsb' 8 8⟩⟩ ∧
      (s.dev.exec c).1 = .count 63488 ∧ c.op = 0x45 :=
  ⟨fiveWords (.count 63488) 0x0145 7, 0x0145, 0, 0, 0, 7, 9, 0, _, by decide, by decide, by decide, rfl, by decide⟩

theorem witness_SixthWordAcceptedByTheDevice_generic :
    ∃ (s : State) (w0 w1 w2 w3 w4 w5 x : Word) (c : Cdb), s.seq = .packetBuild ∧ s.pktCount = 5 ∧
      s.pkt = #v[w0, w1, w2, w3, w4, x] ∧
      c = ⟨w0.extractLsb' 0 8,
        ⟨w0.extractLsb' 8 8, w1.extractLsb' 0 8, w1.extractLsb' 8 8, w2.extractLsb' 0 8, w2.extractLsb' 8 8,
          w3.extractLsb' 0 8, w3.extractLsb' 8 8, w4.extractLsb' 0 8, w4.extractLsb' 8 8, w5.extractLsb' 0 8,
          w5.extractLsb' 8 8⟩⟩ ∧
      (s.dev.exec c).1 = .count 1 ∧ c.op = 0x28 :=
  ⟨fiveWords (.count 1) 0x0028 7, 0x0028, 0, 0, 0, 7, 9, 0, _, by decide, by decide, by decide, rfl, by decide⟩

theorem witness_SixthWordOfAModeSelect :
    ∃ (s : State) (w0 w1 w2 w3 w4 w5 x : Word) (c : Cdb), s.seq = .packetBuild ∧ s.pktCount = 5 ∧
      s.pkt = #v[w0, w1, w2, w3, w4, x] ∧
      c = ⟨w0.extractLsb' 0 8,
        ⟨w0.extractLsb' 8 8, w1.extractLsb' 0 8, w1.extractLsb' 8 8, w2.extractLsb' 0 8, w2.extractLsb' 8 8,
          w3.extractLsb' 0 8, w3.extractLsb' 8 8, w4.extractLsb' 0 8, w4.extractLsb' 8 8, w5.extractLsb' 0 8,
          w5.extractLsb' 8 8⟩⟩ ∧
      (s.dev.exec c).1 = .count 1 ∧ c.op = 0x55 ∧ 2 ≤ modeSelectLen s.params.modeSelectLen c :=
  ⟨fiveWords (.count 1) 0x1055 7, 0x1055, 0, 0, 0, 7, 9, 0, _, by decide, by decide, by decide, rfl, by decide⟩

theorem witness_RejectedPacketHasNoSideEffect :
    ∀ op ∈ [(0x00 : Byte), 0x45, 0x55, 0xBB, 0x28], ((answering .error).dev.exec ⟨op, zeroTail⟩).1 = .error :=
  by decide

theorem witness_TestUnitReadyAndSpeedForceStatusZero :
    ((answering (.count 0)).dev.exec ⟨0x00, zeroTail⟩).1 = .count 0 ∧
    ((answering (.count 100000)).dev.exec ⟨0xBB, zeroTail⟩).1 = .count 100000 := by decide

theorem witness_PlaySetsBusyAndArmsItsTimer :
    ((answering (.count 0)).dev.exec ⟨0x45, zeroTail⟩).1 = .count 0 := by decide

theorem witness_ModeSelectExpectsItsParameterWords :
    ((answering (.count 0)).dev.exec ⟨0x55, { zeroTail with b8 := 2 }⟩).1 = .count 0 ∧
    2 ≤ modeSelectLen .parameterListLength ⟨0x55, { zeroTail with b8 := 2 }⟩ ∧
    ((answering (.count 0)).dev.exec ⟨0x55, { zeroTail with b8 := 1 }⟩).1 = .count 0 ∧
    modeSelectLen .parameterListLength ⟨0x55, { zeroTail with b8 := 1 }⟩ < 2 := by decide

theorem witness_GenericPacketIsOnlyDispatched :
    ((0x01 : Byte) ≠ 0x00 ∧ (0x01 : Byte) ≠ 0x45 ∧ (0x01 : Byte) ≠ 0x55 ∧ (0x01 : Byte) ≠ 0xBB) ∧
    ((answering (.count 63489)).dev.exec ⟨0x01, zeroTail⟩).1 = .count 63489 := by decide

theorem witness_ModeParameterWordsEndInWriteData :
    ∃ s : State, s.seq = .modeParamWait ∧ s.modeBuf.length + 1 ≠ s.modeExpect := ⟨waiting 2 [], by decide⟩

theorem witness_ModeParameterWordsEndInWriteData_last :
    ∃ s : State, s.seq = .modeParamWait ∧ s.modeBuf.length + 1 = s.modeExpect := ⟨waiting 2 [5], by decide⟩

theorem witness_WholeParameterListReachesTheDevice :
    ∃ (s : State) (m : DWord) (ws : List Word), laneDecode s.params.laneDecode m = (true, true) ∧
      s.seq = .modeParamWait ∧ s.modeBuf = [] ∧ ws.length = s.modeExpect ∧ 1 ≤ s.modeExpect ∧
      s.inbox = ws.map (fun w => .bus .write 0 m (w.setWidth 32)) ++ [] :=
  ⟨{ waiting 1 [] with inbox := [.bus .write 0 0xFFFFFFFF 5] }, 0xFFFFFFFF, [5], by decide⟩

theorem witness_PacketInstructionEqualsSevenBusWrites :
    laneDecode State.reset.params.laneDecode 0xFFFF0000 = (false, true) ∧
    laneDecode State.reset.params.laneDecode 0xFFFFFFFF = (true, true) ∧
    (0x00A00000 : DWord).extractLsb' 16 8 = State.reset.params.cmdPacket := by decide

theorem witness_PacketInstructionEqualsSevenBusWrites_active_low :
    ∃ (s : State) (mh mw v : DWord), laneDecode s.params.laneDecode mh = (false, true) ∧
      laneDecode s.params.laneDecode mw = (true, true) ∧ v.extractLsb' 16 8 = s.params.cmdPacket :=
  ⟨{ State.reset with params := { Params.default with laneDecode := .activeLow, cmdPacket := 0xB0 } }, 0x0000FFFF, 0, 0xFFB0FFFF,
    by decide⟩

theorem witness_UnexpectedWideWriteIsIgnored :
    State.reset.seq ≠ .packetBuild ∧ State.reset.seq ≠ .modeParamWait := by decide

theorem witness_WideReadFollowsTheSequencer :
    { State.reset with seq := .packetBuild }.seq = .packetBuild ∧ (waiting 1 []).seq = .modeParamWait ∧
    (announced .dataDma 1 []).seq = .dataDma ∧ (announced .dataWait 1 []).seq = .dataWait ∧ State.reset.seq = .ready ∧
    (announced .dataPio 1 []).seq = .dataPio ∧ (announced .complete 0 []).seq = .complete ∧ State.reset.seq ≠ .dataDma :=
  by decide

theorem witness_OverrunReadReturnsZero :
    State.reset.seq ≠ .packetBuild ∧ State.reset.seq ≠ .modeParamWait ∧ State.reset.seq ≠ .dataDma ∧
    State.reset.readPointer = State.reset.writtenLength ∧ State.reset.chunkRemaining = 0 := by decide

/-- Two staged words, `p` of them read, with a chunk of `c` bytes announced. -/
def staged (p c : Nat) : State := { announced .dataPio c [] with rb := [0x1111, 0x2222], readPointer := p }

theorem witness_StagedWordIsPoppedInOrder :
    ∃ (s : State) (w : Word), s.seq ≠ .packetBuild ∧ s.seq ≠ .modeParamWait ∧ s.seq ≠ .dataDma ∧
      s.rb[s.readPointer]? = some w ∧ s.readPointer + 1 < s.writtenLength := ⟨staged 0 0, 0x1111, by decide⟩

theorem witness_StagedWordIsPoppedInOrder_last_of_chunk :
    ∃ (s : State) (w : Word), s.seq ≠ .packetBuild ∧ s.seq ≠ .modeParamWait ∧ s.seq ≠ .dataDma ∧
      s.rb[s.readPointer]? = some w ∧ s.readPointer + 1 = s.writtenLength ∧ s.chunkRemaining ≠ 0 :=
  ⟨staged 1 1, 0x2222, by decide⟩

theorem witness_StagedWordIsPoppedInOrder_last_of_all :
    ∃ (s : State) (w : Word), s.seq ≠ .packetBuild ∧ s.seq ≠ .modeParamWait ∧ s.seq ≠ .dataDma ∧
      s.rb[s.readPointer]? = some w ∧ s.readPointer + 1 = s.writtenLength ∧ s.chunkRemaining = 0 :=
  ⟨staged 1 0, 0x2222, by decide⟩

theorem witness_FirstReadStagesTheWholeChunk :
    ∃ s : State, s.seq ≠ .packetBuild ∧ s.seq ≠ .modeParamWait ∧ s.seq ≠ .dataDma ∧
      s.readPointer = s.writtenLength ∧ s.chunkRemaining = 3 ∧ s.totalRemaining = 0 :=
  ⟨announced .dataWait 3 [], by decide⟩

theorem witness_FirstReadStagesTheWholeChunk_more_to_come :
    ∃ s : State, s.seq = .dataWait ∧ s.readPointer = s.writtenLength ∧ 3 ≤ s.chunkRemaining ∧ s.totalRemaining = 1 :=
  ⟨announced .dataWait 63489 [], by decide⟩

theorem witness_OneWordTransferEndsInOneRead :
    ∃ s : State, s.seq = .dataWait ∧ s.readPointer = s.writtenLength ∧ s.chunkRemaining = 1 ∧ s.totalRemaining = 0 :=
  ⟨announced .dataWait 1 [], by decide⟩

theorem witness_OneWordTransferEndsInOneRead_two_bytes :
    ∃ s : State, s.seq = .dataPio ∧ s.readPointer = s.writtenLength ∧ s.chunkRemaining = 2 ∧ s.totalRemaining = 0 :=
  ⟨announced .dataPio 2 [], by decide⟩

theorem witness_DeviceReadsAreWholeSectors :
    ∃ s : State, s.seq ≠ .packetBuild ∧ s.seq ≠ .modeParamWait ∧ s.seq ≠ .dataDma ∧ s.readPointer = s.writtenLength ∧
      0 < s.chunkRemaining ∧ 0 + 1 < (s.chunkRemaining + 2047) / 2048 := ⟨announced .dataWait 2049 [], by decide⟩

theorem witness_DeviceReadsAreWholeSectors_fire :
    ∃ s : State, s.dmaTimer ≠ .idle ∧ s.chunkRemaining = 1 ∧ 0 < s.chunkRemaining :=
  ⟨{ announced .dataDma 1 [] with dmaTimer := .pending 0 }, by decide⟩

/-- `n` bytes announced and the `k` input events `x` that fetch them waiting. -/
def fetching (q : Seq) (n k : Nat) (x : Input) : State :=
  { announced q n [] with dmaTimer := .pending 0, inbox := List.replicate k x ++ [] }

theorem witness_PioDrainDeliversTheWholeResult :
    ∃ (s : State) (m : DWord) (n : Nat), laneDecode s.params.laneDecode m = (true, true) ∧ n = 1 ∧ 0 < n ∧
      s.seq = .dataWait ∧ s.rb = [] ∧ s.readPointer = 0 ∧ s.chunkRemaining = min n 63488 ∧ s.totalRemaining = n - min n 63488 ∧
      s.inbox = List.replicate ((n + 1) / 2) (.bus .read 0 m 0) ++ [] :=
  ⟨fetching .dataWait 1 1 (.bus .read 0 0xFFFFFFFF 0), 0xFFFFFFFF, 1, by decide, rfl, by decide, rfl, rfl, rfl, rfl, rfl,
    rfl⟩

theorem witness_PioDrainDeliversTheWholeResult_two_chunks :
    ∃ (s : State) (m : DWord) (n : Nat), laneDecode s.params.laneDecode m = (true, true) ∧ n = 63489 ∧ 0 < n ∧
      s.seq = .dataWait ∧ s.rb = [] ∧ s.readPointer = 0 ∧ s.chunkRemaining = min n 63488 ∧ s.totalRemaining = n - min n 63488 ∧
      s.inbox = List.replicate ((n + 1) / 2) (.bus .read 0 m 0) ++ [] :=
  ⟨fetching .dataWait 63489 31745 (.bus .read 0 0xFFFFFFFF 0), 0xFFFFFFFF, 63489, by decide, rfl, by decide, rfl, rfl, rfl, rfl, rfl,
    rfl⟩

theorem witness_IdentifyBlockIsReadInOrder :
    ∃ (s : State) (mh mw v : DWord), s.params.wf = true ∧ laneDecode s.params.laneDecode mh = (false, true) ∧
      laneDecode s.params.laneDecode mw = (true, true) ∧ v.extractLsb' 16 8 = 0xA1#8 ∧
      s.inbox = .bus .write 3 mh v :: List.replicate 256 (.bus .read 0 mw 0) ++ [] :=
  ⟨{ State.reset with inbox := _ }, 0xFFFF0000, 0xFFFFFFFF, 0x00A10000, by decide, by decide, by decide, by decide, rfl⟩

theorem witness_BurstRequestArmsTheTimer :
    ((announced .dataWait 2047 []).seq ≠ .dataPio ∧ (0xFFFFFFFC : DWord).toNat % 4 = 0) ∧
    (State.reset.seq ≠ .dataPio ∧ (0 : DWord).toNat % 4 = 0) := by decide

theorem witness_EventsWithoutMeaningAreRefusedByName :
    (announced .dataDma 1 []).seq = .dataDma ∧ (announced .dataPio 1 []).seq = .dataPio ∧
    (State.reset.seq ≠ .dataPio ∧ (1 : DWord).toNat % 4 ≠ 0 ∧ (3 : DWord).toNat % 4 ≠ 0) ∧
    State.reset.dmaTimer = .idle ∧ State.reset.playTimer = .idle := by decide

theorem witness_DmaFireRefillsOrCompletes :
    ∃ s : State, s.dmaTimer = .pending 0 ∧ s.totalRemaining = 1 ∧ s.totalRemaining ≠ 0 :=
  ⟨fetching .dataDma 63489 1 (.event 1 0), by decide⟩

theorem witness_DmaFireRefillsOrCompletes_last :
    ∃ s : State, s.dmaTimer = .pending 0 ∧ s.chunkRemaining = 63488 ∧ s.totalRemaining = 0 :=
  ⟨fetching .dataDma 63488 1 (.event 1 0), by decide⟩

theorem witness_DmaFireStoresTheChunkInStreamOrder :
    ∃ s : State, s.dmaTimer = .pending 0 ∧ s.chunkRemaining = 5 ∧ s.chunkRemaining ≤ 63488 ∧
      0 < 4 * ((s.chunkRemaining + 3) / 4) ∧ 7 < 4 * ((s.chunkRemaining + 3) / 4) ∧
      ∀ k, k < 4 * ((s.chunkRemaining + 3) / 4) → 8 ≠ (s.dmaDest + BitVec.ofNat 32 k).toNat :=
  ⟨fetching .dataDma 5 1 (.event 1 0), by decide⟩

theorem witness_DmaFireTraceIsReadsAndWritesInOrder :
    (fetching .dataDma 1 1 (.event 1 0)).dmaTimer = .pending 0 := by decide

theorem witness_DmaTransferDeliversTheWholeResult :
    ∃ (s : State) (n : Nat), n = 1 ∧ 0 < n ∧ n ≤ 2 ^ 32 - 4 ∧ s.seq = .dataDma ∧ s.dmaTimer = .pending 0 ∧
      s.chunkRemaining = min n 63488 ∧ s.totalRemaining = n - min n 63488 ∧
      s.inbox = List.replicate ((n + 63487) / 63488) (.event 1 0) ++ [] :=
  ⟨fetching .dataDma 1 1 (.event 1 0), 1, rfl, by decide, by decide, rfl, rfl, rfl, rfl, rfl⟩

theorem witness_DmaTransferDeliversTheWholeResult_two_chunks :
    ∃ (s : State) (n : Nat), n = 63489 ∧ 0 < n ∧ n ≤ 2 ^ 32 - 4 ∧ s.seq = .dataDma ∧ s.dmaTimer = .pending 0 ∧
      s.chunkRemaining = min n 63488 ∧ s.totalRemaining = n - min n 63488 ∧
      s.inbox = List.replicate ((n + 63487) / 63488) (.event 1 0) ++ [] :=
  ⟨fetching .dataDma 63489 2 (.event 1 0), 63489, rfl, by decide, by decide, rfl, rfl, rfl, rfl, rfl⟩

theorem witness_DmaTransferDeliversTheWholeResult_largest :
    ∃ (s : State) (n : Nat), n = 4294967292 ∧ 0 < n ∧ n ≤ 2 ^ 32 - 4 ∧ s.seq = .dataDma ∧ s.dmaTimer = .pending 0 ∧
      s.chunkRemaining = min n 63488 ∧ s.totalRemaining = n - min n 63488 ∧
      s.inbox = List.replicate ((n + 63487) / 63488) (.event 1 0) ++ [] :=
  ⟨fetching .dataDma 4294967292 67651 (.event 1 0), 4294967292, rfl, by decide, by decide, rfl, rfl, rfl, rfl, rfl⟩

theorem witness_StaleDmaFireEndsInDriveReady :
    { State.reset with dmaTimer := .pending 0 }.dmaTimer = .pending 0 ∧
    { State.reset with dmaTimer := .pending 0 }.chunkRemaining = 0 ∧
    { State.reset with dmaTimer := .pending 0 }.totalRemaining = 0 := by decide

theorem witness_PlayFireEndsBusy :
    { State.reset with playTimer := .pending 1 }.playTimer = .pending 1 := by decide

theorem witness_OnlyItsFireEndsAPendingTimer :
    (∃ t, exec .setFeatures { State.reset with dmaTimer := .pending 0, playTimer := .pending 0 } = .next t) ∧
    Instr.setFeatures ≠ .dmaFire ∧ Instr.setFeatures ≠ .playFire ∧ Timer.pending 0 ≠ .idle :=
  ⟨⟨_, rfl⟩, by decide, by decide, by decide⟩

theorem witness_EveryStepKeepsTheInvariant :
    Inv (holding (.cmd 0xA0)) ∧ ∃ t, step (holding (.cmd 0xA0)) = .next t := ⟨by constructor <;> decide, _, rfl⟩

theorem witness_UnusedStatusBitsStayClear :
    (holding (.cmd 0xA0)).params.wf = true ∧ (holding (.cmd 0xA0)).st &&& unusedStatus (holding (.cmd 0xA0)).params = 0 ∧ ∃ t, step (holding (.cmd 0xA0)) = .next t :=
  ⟨by decide, by decide, _, rfl⟩

theorem witness_OnlyTheHostSetsReasonBitsAboveIo :
    (∀ v, Instr.packet ≠ .wrReg2 v) ∧ (∃ t, exec .packet State.reset = .next t) ∧ State.reset.ir &&& unusedReason State.reset.params = 0 ∧
    State.reset.params.wf = true := ⟨(fun _ h => nomatch h), ⟨_, rfl⟩, by decide⟩

theorem witness_LatchesChangeOnlyByTheirOwnWrite :
    (∃ t, exec .setFeatures State.reset = .next t) ∧
    (∀ v, Instr.setFeatures ≠ .wrDl v) ∧ (∀ v, Instr.setFeatures ≠ .wrReg3 v) ∧ (∀ v, Instr.setFeatures ≠ .wrReg6 v) :=
  ⟨⟨_, rfl⟩, (fun _ h => nomatch h), (fun _ h => nomatch h), (fun _ h => nomatch h)⟩

theorem witness_LatchesInfluenceNothing :
    (∃ t, exec .setFeatures State.reset = .next t) ∧ Instr.setFeatures ≠ .rdReg0 ∧ Instr.setFeatures ≠ .rdReg3 ∧
    Instr.setFeatures ≠ .rdReg6 ∧
    (∀ v, Instr.setFeatures ≠ .wrDl v) ∧ (∀ v, Instr.setFeatures ≠ .wrReg3 v) ∧ (∀ v, Instr.setFeatures ≠ .wrReg6 v) :=
  ⟨⟨_, rfl⟩, by decide, by decide, by decide, (fun _ h => nomatch h), (fun _ h => nomatch h), (fun _ h => nomatch h)⟩

theorem witness_ErrorFeatureIsWrittenByThreeEvents :
    (∃ t, exec (.cdbGeneric 0x28 zeroTail) (answering .error) = .next t) ∧
    (Instr.cdbGeneric 0x28 zeroTail).wf (answering .error).params = true ∧
    ∃ t, exec (.wrWide 0 9) (fiveWords .error 0x0028 7) = .next t := ⟨⟨_, rfl⟩, by decide, _, rfl⟩

theorem witness_OnlyTheDmaFireWritesMemory :
    Instr.playFire ≠ .dmaFire ∧ ∃ t, exec .playFire { State.reset with playTimer := .pending 0 } = .next t :=
  ⟨by decide, _, rfl⟩

theorem witness_AtMostTwoInterruptsPerInstruction :
    ∃ t, exec (.rdWide 0) (announced .dataWait 2 [1, 2]) = .next t := ⟨_, rfl⟩

end Sys2Proof.Tests
end

section
/-! SUPPORT. The round trip of decoding and encoding (R70 to R91): the rows of one register by its number and half, the
wide and the empty access by the offset they ignore, the command and packet rows by the byte that names them. -/

namespace Sys2Proof.Machine

/-! ### The rows of one register -/

/-- The instruction that reads a register (R100). -/
def TaskReg.readInstr : TaskReg → Instr
  | .dl => .rdReg0
  | .err => .rdReg1
  | .ir => .rdReg2
  | .sc => .rdReg3
  | .bcl => .rdReg4
  | .bch => .rdReg5
  | .ds => .rdReg6
  | .st => .rdReg7

/-- The instruction that writes a byte to a register; register 7 takes it as a command (R101 to R103). -/
def TaskReg.writeInstr : TaskReg → Byte → Instr
  | .dl => .wrDl
  | .err => .wrReg1
  | .ir => .wrReg2
  | .sc => .wrReg3
  | .bcl => .wrReg4
  | .bch => .wrReg5
  | .ds => .wrReg6
  | .st => .wrCmd

/-- The word offset of a register, two registers to a bus word (R72). -/
def TaskReg.offset : TaskReg → BitVec 2
  | .dl | .err => 0
  | .ir | .sc => 1
  | .bcl | .bch => 2
  | .ds | .st => 3

/-- The selector of a byte access to a register: the half that carries it and not the other (R72, R91). -/
def TaskReg.selector (rw : Dir) (r : TaskReg) : BitVec 5 := selectorOf rw r.offset (!r.inHighHalf) r.inHighHalf

theorem encode_readInstr (p : Params) (r : TaskReg) :
    encode p r.readInstr = busInput p.laneDecode (r.selector .read) 0 := by
  cases r <;> rfl

theorem encode_writeInstr (p : Params) (r : TaskReg) (v : Byte) :
    encode p (r.writeInstr v) = busInput p.laneDecode (r.selector .write) (byteLane r.inHighHalf v) := by
  cases r <;> rfl

theorem decodeSelector_read (r : TaskReg) (x : DWord) : decodeSelector (r.selector .read) x = r.readInstr := by
  cases r <;> rfl

theorem decodeSelector_write (r : TaskReg) (x : DWord) :
    decodeSelector (r.selector .write) x = r.writeInstr (laneByte r.inHighHalf x) := by
  cases r <;> rfl

/-- A byte placed in its lane is read back from it (R73). -/
@[simp] theorem laneByte_byteLane (hi : Bool) (b : Byte) : laneByte hi (byteLane hi b) = b := by
  cases hi with
  | false =>
    simp only [laneByte, byteLane, Bool.false_eq_true, if_false]
    ext i hlt
    have inWord : i < 32 := by omega
    simp [inWord, BitVec.getLsbD_eq_getElem hlt]
  | true =>
    simp only [laneByte, byteLane, if_true]
    ext i hlt
    have inWord : 16 + i < 32 := by omega
    simp [inWord, BitVec.getLsbD_eq_getElem hlt]

/-! ### The wide and the empty access -/

/-- The fields of a selector are those it was made of (R91). -/
theorem selectorOf_components (rw : Dir) (oo : BitVec 2) (lo hi : Bool) :
    selectorDir (selectorOf rw oo lo hi) = rw ∧ selectorOffset (selectorOf rw oo lo hi) = oo ∧
      selectorLo (selectorOf rw oo lo hi) = lo ∧ selectorHi (selectorOf rw oo lo hi) = hi := by
  cases rw <;> revert oo lo hi <;> decide

/-- The selector of an access that uses both halves alike, as the encoder writes it (R91). -/
theorem selectorOf_both (rw : Dir) (oo : BitVec 2) (b : Bool) :
    selectorOf rw oo b b = BitVec.ofBool (rw == .write) ++ oo ++ (BitVec.ofBool b ++ BitVec.ofBool b) := by
  cases rw <;> revert oo b <;> decide

theorem encode_nopAccess (p : Params) (rw : Dir) (oo : BitVec 2) :
    encode p (.nopAccess rw oo) = busInput p.laneDecode (selectorOf rw oo false false) 0 := by
  rw [selectorOf_both]
  cases rw <;> rfl

theorem encode_rdWide (p : Params) (oo : BitVec 2) :
    encode p (.rdWide oo) = busInput p.laneDecode (selectorOf .read oo true true) 0 := by
  rw [selectorOf_both]
  rfl

theorem encode_wrWide (p : Params) (oo : BitVec 2) (w : Word) :
    encode p (.wrWide oo w) = busInput p.laneDecode (selectorOf .write oo true true) (wideLane w) := by
  rw [selectorOf_both]
  rfl

theorem decodeSelector_nopAccess (rw : Dir) (oo : BitVec 2) (x : DWord) :
    decodeSelector (selectorOf rw oo false false) x = .nopAccess rw oo := by
  obtain ⟨hdir, hoo, hlo, hhi⟩ := selectorOf_components rw oo false false
  simp only [decodeSelector, hdir, hoo, hlo, hhi]

theorem decodeSelector_rdWide (oo : BitVec 2) (x : DWord) :
    decodeSelector (selectorOf .read oo true true) x = .rdWide oo := by
  obtain ⟨hdir, hoo, hlo, hhi⟩ := selectorOf_components .read oo true true
  simp only [decodeSelector, hdir, hoo, hlo, hhi]

theorem decodeSelector_wrWide (oo : BitVec 2) (x : DWord) :
    decodeSelector (selectorOf .write oo true true) x = .wrWide oo (wideWord x) := by
  obtain ⟨hdir, hoo, hlo, hhi⟩ := selectorOf_components .write oo true true
  simp only [decodeSelector, hdir, hoo, hlo, hhi]

/-- A Data word placed on the bus is read back from it (R74). -/
@[simp] theorem wideWord_wideLane (w : Word) : wideWord (wideLane w) = w := by
  simp only [wideWord, wideLane]
  ext i hlt
  have inWord : i < 32 := by omega
  simp [inWord, BitVec.getLsbD_eq_getElem hlt]

/-! ### The command and packet rows -/

/-- The byte of PACKET is neither of the two other command bytes (R8). -/
theorem cmdPacket_ne_of_wf {p : Params} (h : p.wf = true) : p.cmdPacket ≠ cmdIdentify ∧ p.cmdPacket ≠ cmdSetFeatures := by
  simp only [Params.wf, Bool.and_eq_true, bne_iff_ne] at h
  obtain ⟨⟨-, hidentify⟩, hfeatures⟩ := h
  exact ⟨hidentify, hfeatures⟩

theorem decodeCommand_cmdPacket (p : Params) : decodeCommand p p.cmdPacket = .packet := if_pos rfl

theorem decodeCommand_cmdIdentify {p : Params} (h : p.wf = true) :
    decodeCommand p cmdIdentify = .identifyPacketDevice := by
  simp [decodeCommand, (cmdPacket_ne_of_wf h).1.symm]

theorem decodeCommand_cmdSetFeatures {p : Params} (h : p.wf = true) : decodeCommand p cmdSetFeatures = .setFeatures := by
  have distinct : cmdSetFeatures ≠ cmdIdentify := by decide
  simp [decodeCommand, (cmdPacket_ne_of_wf h).2.symm, distinct]

theorem decodeCommand_unrecognised {p : Params} {c : Byte} (h : isRecognisedCommand p c = false) :
    decodeCommand p c = .cmdUnrecognised c := by
  simp only [isRecognisedCommand, Bool.or_eq_false_iff, beq_eq_false_iff_ne] at h
  obtain ⟨⟨hpacket, hidentify⟩, hfeatures⟩ := h
  simp only [decodeCommand, hpacket, hidentify, hfeatures, if_false]

theorem decodeCdb_generic {op : Byte} (h : isSpecialOpcode op = false) (t : CdbTail) :
    decodeCdb ⟨op, t⟩ = .cdbGeneric op t := by
  simp only [isSpecialOpcode, Bool.or_eq_false_iff, beq_eq_false_iff_ne] at h
  obtain ⟨⟨⟨hready, hplay⟩, hselect⟩, hspeed⟩ := h
  simp only [decodeCdb, hready, hplay, hselect, hspeed, if_false]

/-! ### The round trip -/

theorem decode_encode_readInstr {p : Params} (h : lanesEncodable p.laneDecode = true) (r : TaskReg) :
    decode p (encode p r.readInstr) = .ok r.readInstr := by
  rw [encode_readInstr, decode_busInput h, decodeSelector_read]

theorem decode_encode_writeInstr {p : Params} (h : lanesEncodable p.laneDecode = true) (r : TaskReg) (v : Byte) :
    decode p (encode p (r.writeInstr v)) = .ok (r.writeInstr v) := by
  rw [encode_writeInstr, decode_busInput h, decodeSelector_write, laneByte_byteLane]

/-- Settles O1, row by row of the opcode table: a bus access through its selector, a command or a packet through the
byte that names it. -/
theorem decodeInvertsEncode : Obligations.DecodeInvertsEncode := by
  intro p i hp hlanes hi
  cases i with
  | rdReg0 => exact decode_encode_readInstr hlanes .dl
  | rdReg1 => exact decode_encode_readInstr hlanes .err
  | rdReg2 => exact decode_encode_readInstr hlanes .ir
  | rdReg3 => exact decode_encode_readInstr hlanes .sc
  | rdReg4 => exact decode_encode_readInstr hlanes .bcl
  | rdReg5 => exact decode_encode_readInstr hlanes .bch
  | rdReg6 => exact decode_encode_readInstr hlanes .ds
  | rdReg7 => exact decode_encode_readInstr hlanes .st
  | wrDl v => exact decode_encode_writeInstr hlanes .dl v
  | wrReg1 v => exact decode_encode_writeInstr hlanes .err v
  | wrReg2 v => exact decode_encode_writeInstr hlanes .ir v
  | wrReg3 v => exact decode_encode_writeInstr hlanes .sc v
  | wrReg4 v => exact decode_encode_writeInstr hlanes .bcl v
  | wrReg5 v => exact decode_encode_writeInstr hlanes .bch v
  | wrReg6 v => exact decode_encode_writeInstr hlanes .ds v
  | wrCmd c => exact decode_encode_writeInstr hlanes .st c
  | rdWide oo => rw [encode_rdWide, decode_busInput hlanes, decodeSelector_rdWide]
  | wrWide oo w => rw [encode_wrWide, decode_busInput hlanes, decodeSelector_wrWide, wideWord_wideLane]
  | nopAccess rw oo => rw [encode_nopAccess, decode_busInput hlanes, decodeSelector_nopAccess]
  | packet => exact congrArg Except.ok (decodeCommand_cmdPacket p)
  | identifyPacketDevice => exact congrArg Except.ok (decodeCommand_cmdIdentify hp)
  | setFeatures => exact congrArg Except.ok (decodeCommand_cmdSetFeatures hp)
  | cmdUnrecognised c => exact congrArg Except.ok (decodeCommand_unrecognised (by simpa [Instr.wf] using hi))
  | cdbTestUnitReadyBusReset t => rfl
  | cdbPlay t => rfl
  | cdbModeSelect t => rfl
  | cdbSetCdromSpeed t => rfl
  | cdbGeneric op t => exact congrArg Except.ok (decodeCdb_generic (by simpa [Instr.wf] using hi) t)
  | dmaReq a => rfl
  | dmaFire => rfl
  | playFire => rfl
  | resetLine v => rfl

end Sys2Proof.Machine
end

section
/-! SUPPORT. One inversion lemma for `exec`: which operation of the model an instruction runs when it answers a next
state. What the command decoder does on each command byte, and what a step does with a decoded event. -/

namespace Sys2Proof.Machine

/-- What an instruction does to the state when it answers a next state, by the operation it runs. The rows of one
register stand together, and so do the five packet rows, which are the packet they encode. -/
inductive Runs (s : State) : Instr → State → Prop where
  | byteRead (r : TaskReg) : Runs s r.readInstr (readTaskReg r s)
  | byteWrite (r : TaskReg) (v : Byte) (hr : r ≠ .st) : Runs s (r.writeInstr v) (s.setReg r v)
  | commandWrite (c : Byte) : Runs s (.wrCmd c) (onCommandWrite c s)
  | wideRead (oo : BitVec 2) (t : State) (h : wideRead s = .next t) : Runs s (.rdWide oo) t
  | wideWrite (oo : BitVec 2) (w : Word) : Runs s (.wrWide oo w) (wideWrite w s)
  | emptyRead (oo : BitVec 2) : Runs s (.nopAccess .read oo) (returnBus 0 s)
  | emptyWrite (oo : BitVec 2) : Runs s (.nopAccess .write oo) s
  | packet : Runs s .packet (packetCommand s)
  | identify : Runs s .identifyPacketDevice (identifyCommand s)
  | setFeatures : Runs s .setFeatures (setFeaturesCommand s)
  | unrecognised (c : Byte) : Runs s (.cmdUnrecognised c) s
  | wholePacket (i : Instr) (c : Cdb) (h : encode s.params i = .cdb c) : Runs s i (sendPacket c s)
  | burstRequest (a : DWord) (t : State) (h : burstRequest a s = .next t) : Runs s (.dmaReq a) t
  | dmaFire (t : State) (h : dmaTimerFire s = .next t) : Runs s .dmaFire t
  | playFire (t : State) (h : playTimerFire s = .next t) : Runs s .playFire t
  | resetLine (v : DWord) : Runs s (.resetLine v) (resetEdge v s)

/-- An outcome that is a next state is that of the operation it was built from. -/
theorem eq_of_next {s' t : State} (h : Host.Outcome.next (φ := Fault) (ρ := Refusal) s' = .next t) : t = s' :=
  (Host.Outcome.next.inj h).symm

/-- Which operation an instruction runs when it answers a next state. -/
theorem runs_of_exec {i : Instr} {s t : State} (h : exec i s = .next t) : Runs s i t := by
  cases i with
  | rdReg0 => rw [eq_of_next h]; exact .byteRead .dl
  | rdReg1 => rw [eq_of_next h]; exact .byteRead .err
  | rdReg2 => rw [eq_of_next h]; exact .byteRead .ir
  | rdReg3 => rw [eq_of_next h]; exact .byteRead .sc
  | rdReg4 => rw [eq_of_next h]; exact .byteRead .bcl
  | rdReg5 => rw [eq_of_next h]; exact .byteRead .bch
  | rdReg6 => rw [eq_of_next h]; exact .byteRead .ds
  | rdReg7 => rw [eq_of_next h]; exact .byteRead .st
  | wrDl v => rw [eq_of_next h]; exact .byteWrite .dl v (by decide)
  | wrReg1 v => rw [eq_of_next h]; exact .byteWrite .err v (by decide)
  | wrReg2 v => rw [eq_of_next h]; exact .byteWrite .ir v (by decide)
  | wrReg3 v => rw [eq_of_next h]; exact .byteWrite .sc v (by decide)
  | wrReg4 v => rw [eq_of_next h]; exact .byteWrite .bcl v (by decide)
  | wrReg5 v => rw [eq_of_next h]; exact .byteWrite .bch v (by decide)
  | wrReg6 v => rw [eq_of_next h]; exact .byteWrite .ds v (by decide)
  | wrCmd c => rw [eq_of_next h]; exact .commandWrite c
  | rdWide oo => exact .wideRead oo t h
  | wrWide oo w => rw [eq_of_next h]; exact .wideWrite oo w
  | nopAccess rw oo =>
    cases rw with
    | read => rw [eq_of_next h]; exact .emptyRead oo
    | write => rw [eq_of_next h]; exact .emptyWrite oo
  | packet => rw [eq_of_next h]; exact .packet
  | identifyPacketDevice => rw [eq_of_next h]; exact .identify
  | setFeatures => rw [eq_of_next h]; exact .setFeatures
  | cmdUnrecognised c => rw [eq_of_next h]; exact .unrecognised c
  | cdbTestUnitReadyBusReset tail => rw [eq_of_next h]; exact .wholePacket _ ⟨opTestUnitReady, tail⟩ rfl
  | cdbPlay tail => rw [eq_of_next h]; exact .wholePacket _ ⟨opPlay, tail⟩ rfl
  | cdbModeSelect tail => rw [eq_of_next h]; exact .wholePacket _ ⟨opModeSelect, tail⟩ rfl
  | cdbSetCdromSpeed tail => rw [eq_of_next h]; exact .wholePacket _ ⟨opSetCdromSpeed, tail⟩ rfl
  | cdbGeneric op tail => rw [eq_of_next h]; exact .wholePacket _ ⟨op, tail⟩ rfl
  | dmaReq a => exact .burstRequest a t h
  | dmaFire => exact .dmaFire t h
  | playFire => exact .playFire t h
  | resetLine v => rw [eq_of_next h]; exact .resetLine v

/-! ### The command decoder -/

theorem onCommandWrite_packet {c : Byte} {s : State} (hc : c = s.params.cmdPacket) :
    onCommandWrite c s = packetCommand s := if_pos hc

theorem onCommandWrite_identify {s : State} (h : s.params.wf = true) :
    onCommandWrite cmdIdentify s = identifyCommand s := by
  simp [onCommandWrite, (cmdPacket_ne_of_wf h).1.symm]

theorem onCommandWrite_setFeatures {s : State} (h : s.params.wf = true) :
    onCommandWrite cmdSetFeatures s = setFeaturesCommand s := by
  have distinct : cmdSetFeatures ≠ cmdIdentify := by decide
  simp [onCommandWrite, (cmdPacket_ne_of_wf h).2.symm, distinct]

theorem onCommandWrite_other {c : Byte} {s : State} (hpacket : c ≠ s.params.cmdPacket) (hidentify : c ≠ cmdIdentify)
    (hfeatures : c ≠ cmdSetFeatures) : onCommandWrite c s = s := by
  simp only [onCommandWrite, hpacket, hidentify, hfeatures, if_false, unrecognisedCommand]

/-- Settles O19: WR_CMD answers what the command decoder makes of the byte, and each of the three commands is
the decoder's answer to its own byte. -/
theorem commandWriteRunsItsCommand : Obligations.CommandWriteRunsItsCommand := by
  intro s c hp
  refine ⟨onCommandWrite c s, rfl, ?packet, ?identify, ?features, ?other⟩
  case packet => intro hc; rw [onCommandWrite_packet hc]; rfl
  case identify => rintro rfl; exact congrArg Host.Outcome.next (onCommandWrite_identify hp).symm
  case features => rintro rfl; exact congrArg Host.Outcome.next (onCommandWrite_setFeatures hp).symm
  case other => exact onCommandWrite_other

/-- Settles O5: the event at the head of the queue is fetched, decoded and run. -/
theorem stepRunsTheDecodedInstruction : Obligations.StepRunsTheDecodedInstruction := by
  intro s x xs i hinbox hdecode
  simp only [step, fetch, hinbox, hdecode]

end Sys2Proof.Machine
end

section
/-! SUPPORT. What the block's own operations leave alone: the latches that only the host writes, the parameters, and the
status and reason bits without a use (R20, R21, R24, R27, R29). One lemma per operation, each from its equation or its
cases. -/

namespace Sys2Proof.Machine

/-! ### The masks one by one -/

theorem stBusy_and_unusedStatus {p : Params} (h : p.wf = true) : p.stBusy &&& unusedStatus p = 0 := by
  obtain ⟨busy, -, -, -, -⟩ := used_and_unusedStatus h
  exact busy

theorem stDriveReady_and_unusedStatus {p : Params} (h : p.wf = true) : p.stDriveReady &&& unusedStatus p = 0 := by
  obtain ⟨-, driveReady, -, -, -⟩ := used_and_unusedStatus h
  exact driveReady

theorem stDrq_and_unusedStatus {p : Params} (h : p.wf = true) : p.stDrq &&& unusedStatus p = 0 := by
  obtain ⟨-, -, -, drq, -⟩ := used_and_unusedStatus h
  exact drq

theorem irIo_and_unusedReason {p : Params} (h : p.wf = true) : p.irIo &&& unusedReason p = 0 :=
  (used_and_unusedReason h).left

theorem irCommand_and_unusedReason {p : Params} (h : p.wf = true) : p.irCommand &&& unusedReason p = 0 :=
  (used_and_unusedReason h).right

/-! ### The frame -/

/-- The status bits that the block never sets are clear (R27). -/
def StatusClear (s : State) : Prop := s.st &&& unusedStatus s.params = 0

/-- The reason bits that the block never sets are clear (R29). -/
def ReasonClear (s : State) : Prop := s.ir &&& unusedReason s.params = 0

/-- From `s` to `t` the latches and the parameters keep their values, and the bits without a use stay clear. -/
structure KeepsHostOwned (s t : State) : Prop where
  dl : t.dl = s.dl
  sc : t.sc = s.sc
  ds : t.ds = s.ds
  params : t.params = s.params
  status : s.params.wf = true → StatusClear s → StatusClear t
  reason : s.params.wf = true → ReasonClear s → ReasonClear t

theorem KeepsHostOwned.refl (s : State) : KeepsHostOwned s s := ⟨rfl, rfl, rfl, rfl, fun _ h => h, fun _ h => h⟩

theorem KeepsHostOwned.trans {s t u : State} (h : KeepsHostOwned s t) (k : KeepsHostOwned t u) : KeepsHostOwned s u where
  dl := k.dl.trans h.dl
  sc := k.sc.trans h.sc
  ds := k.ds.trans h.ds
  params := k.params.trans h.params
  status hp hs := k.status (h.params ▸ hp) (h.status hp hs)
  reason hp hs := k.reason (h.params ▸ hp) (h.reason hp hs)

/-- An update that writes neither the latches nor the parameters nor `ST` nor `IR`. -/
theorem KeepsHostOwned.of_eq {s t : State} (hdl : t.dl = s.dl) (hsc : t.sc = s.sc) (hds : t.ds = s.ds)
    (hparams : t.params = s.params) (hst : t.st = s.st) (hir : t.ir = s.ir) : KeepsHostOwned s t :=
  ⟨hdl, hsc, hds, hparams, fun _ h => by rwa [StatusClear, hst, hparams], fun _ h => by rwa [ReasonClear, hir, hparams]⟩

/-- An operation after an update that writes neither the latches nor the parameters nor `ST` nor `IR`. -/
theorem KeepsHostOwned.after_eq {s t u : State} (k : KeepsHostOwned t u) (hdl : t.dl = s.dl) (hsc : t.sc = s.sc)
    (hds : t.ds = s.ds) (hparams : t.params = s.params) (hst : t.st = s.st) (hir : t.ir = s.ir) : KeepsHostOwned s u :=
  .trans (.of_eq hdl hsc hds hparams hst hir) k

/-! ### Reset and the task-file commands -/

theorem keepsHostOwned_returnBus (v : DWord) (s : State) : KeepsHostOwned s (returnBus v s) :=
  .of_eq rfl rfl rfl rfl rfl rfl

theorem keepsHostOwned_resetEdge (v : DWord) (s : State) : KeepsHostOwned s (resetEdge v s) := by
  rw [resetEdge_eq]
  split
  · exact ⟨rfl, rfl, rfl, rfl, fun _ _ => BitVec.zero_and, fun _ h => h⟩
  · exact .of_eq rfl rfl rfl rfl rfl rfl

theorem keepsHostOwned_packetCommand (s : State) : KeepsHostOwned s (packetCommand s) :=
  ⟨rfl, rfl, rfl, rfl, fun hp _ => stDrq_and_unusedStatus hp, fun hp _ => irCommand_and_unusedReason hp⟩

theorem keepsHostOwned_identifyCommand (s : State) : KeepsHostOwned s (identifyCommand s) :=
  ⟨rfl, rfl, rfl, rfl, fun hp _ => stDrq_and_unusedStatus hp, fun _ h => h⟩

theorem keepsHostOwned_setFeaturesCommand (s : State) : KeepsHostOwned s (setFeaturesCommand s) :=
  ⟨rfl, rfl, rfl, rfl, fun _ _ => BitVec.zero_and, fun _ h => h⟩

theorem keepsHostOwned_onCommandWrite (c : Byte) (s : State) : KeepsHostOwned s (onCommandWrite c s) := by
  obtain ⟨-, e⟩ | ⟨-, e⟩ | ⟨-, e⟩ | ⟨-, e⟩ := onCommandWrite_cases c s <;> rw [e]
  · exact keepsHostOwned_packetCommand s
  · exact keepsHostOwned_identifyCommand s
  · exact keepsHostOwned_setFeaturesCommand s
  · exact .refl s

/-! ### The packet assembler -/

theorem keepsHostOwned_dispatchFailure (s : State) : KeepsHostOwned s (dispatchFailure s) :=
  ⟨rfl, rfl, rfl, rfl, fun hp h => setCheck_and_unusedStatus hp h, fun _ h => h⟩

theorem keepsHostOwned_announceTransfer (s : State) : KeepsHostOwned s (announceTransfer s) := by
  rw [announceTransfer_eq]
  by_cases hc : s.chunkRemaining = 0 <;> simp only [hc, if_true, if_false]
  · exact ⟨rfl, rfl, rfl, rfl, fun hp _ => stDriveReady_and_unusedStatus hp, fun hp _ => irDone_and_unusedReason hp⟩
  · exact ⟨rfl, rfl, rfl, rfl, fun hp _ => stDataReady_and_unusedStatus hp, fun hp _ => irIo_and_unusedReason hp⟩

theorem keepsHostOwned_opcodeSideEffect (c : Cdb) (s : State) : KeepsHostOwned s (opcodeSideEffect c s) := by
  obtain ⟨-, e⟩ | ⟨-, e⟩ | ⟨-, -, e⟩ | ⟨-, -, e⟩ | ⟨-, e⟩ | ⟨-, e⟩ := opcodeSideEffect_cases c s <;> rw [e]
  · exact ⟨rfl, rfl, rfl, rfl, fun _ _ => BitVec.zero_and, fun _ h => h⟩
  · exact ⟨rfl, rfl, rfl, rfl, fun hp _ => stBusy_and_unusedStatus hp, fun _ h => h⟩
  · exact .of_eq rfl rfl rfl rfl rfl rfl
  · exact .refl s
  · exact ⟨rfl, rfl, rfl, rfl, fun _ _ => BitVec.zero_and, fun _ h => h⟩
  · exact .refl s

theorem keepsHostOwned_dispatchSuccess (n : Nat) (c : Cdb) (s : State) : KeepsHostOwned s (dispatchSuccess n c s) :=
  have seeded : KeepsHostOwned s (seedTransfer n s) := .of_eq rfl rfl rfl rfl rfl rfl
  (seeded.trans (keepsHostOwned_announceTransfer _)).trans (keepsHostOwned_opcodeSideEffect c _)

theorem keepsHostOwned_dispatch (s : State) : KeepsHostOwned s (dispatch s) := by
  obtain ⟨-, e⟩ | ⟨n, -, e⟩ := dispatch_cases s <;> rw [e]
  · exact (keepsHostOwned_dispatchFailure _).after_eq rfl rfl rfl rfl rfl rfl
  · exact (keepsHostOwned_dispatchSuccess n _ _).after_eq rfl rfl rfl rfl rfl rfl

theorem keepsHostOwned_modeParamComplete (s : State) : KeepsHostOwned s (modeParamComplete s) := by
  rw [modeParamComplete_eq]
  exact ⟨rfl, rfl, rfl, rfl, fun _ h => clearDrq_and_eq_zero h, fun _ h => h⟩

theorem keepsHostOwned_wideWrite (w : Word) (s : State) : KeepsHostOwned s (wideWrite w s) := by
  obtain ⟨-, -, e⟩ | ⟨-, -, e⟩ | ⟨-, -, e⟩ | ⟨-, -, e⟩ | ⟨-, -, e⟩ := wideWrite_cases w s <;> rw [e]
  · exact (keepsHostOwned_dispatch _).after_eq rfl rfl rfl rfl rfl rfl
  · exact .of_eq rfl rfl rfl rfl rfl rfl
  · exact (keepsHostOwned_modeParamComplete _).after_eq rfl rfl rfl rfl rfl rfl
  · exact .of_eq rfl rfl rfl rfl rfl rfl
  · exact .refl s

theorem keepsHostOwned_sendPacket (c : Cdb) (s : State) : KeepsHostOwned s (sendPacket c s) := by
  obtain ⟨p, -, e⟩ := sendPacket_eq c s
  rw [e]
  have assembled : KeepsHostOwned (packetCommand s) { packetCommand s with pkt := p, pktCount := 6 } :=
    .of_eq rfl rfl rfl rfl rfl rfl
  exact ((keepsHostOwned_packetCommand s).trans assembled).trans (keepsHostOwned_dispatch _)

/-! ### The PIO engine -/

theorem keepsHostOwned_stage (s : State) : KeepsHostOwned s (stage s) := by
  rw [stage_eq]
  split
  · exact ⟨rfl, rfl, rfl, rfl, fun hp _ => stDataReady_and_unusedStatus hp, fun hp _ => irIo_and_unusedReason hp⟩
  · exact ⟨rfl, rfl, rfl, rfl, fun _ h => clearDrq_and_eq_zero h, fun hp _ => irDone_and_unusedReason hp⟩

theorem keepsHostOwned_stageIfEmpty (s : State) : KeepsHostOwned s (stageIfEmpty s) := by
  unfold stageIfEmpty
  split
  · exact keepsHostOwned_stage s
  · exact .refl s

theorem keepsHostOwned_popWord (s : State) : KeepsHostOwned s (popWord s) := by
  obtain ⟨-, -, e⟩ | ⟨-, -, e⟩ | ⟨-, e⟩ := popWord_cases s <;> rw [e]
  · exact ⟨rfl, rfl, rfl, rfl, fun _ h => clearDrq_and_eq_zero h, fun hp _ => irIo_and_unusedReason hp⟩
  · exact .of_eq rfl rfl rfl rfl rfl rfl
  · exact .of_eq rfl rfl rfl rfl rfl rfl

theorem keepsHostOwned_popOrZero (s : State) : KeepsHostOwned s (popOrZero s) := by
  obtain ⟨-, e⟩ | ⟨-, e⟩ := popOrZero_cases s <;> rw [e]
  · exact (keepsHostOwned_popWord s).trans (keepsHostOwned_returnBus _ _)
  · exact keepsHostOwned_returnBus 0 s

theorem keepsHostOwned_pioRead (s : State) : KeepsHostOwned s (pioRead s) :=
  (keepsHostOwned_stageIfEmpty s).trans (keepsHostOwned_popOrZero _)

theorem keepsHostOwned_wideRead {s t : State} (h : wideRead s = .next t) : KeepsHostOwned s t := by
  obtain ⟨-, rfl⟩ | ⟨-, rfl⟩ | ⟨-, rfl⟩ := wideRead_next h
  · exact keepsHostOwned_returnBus 0 s
  · exact (keepsHostOwned_pioRead _).after_eq rfl rfl rfl rfl rfl rfl
  · exact keepsHostOwned_pioRead s

/-! ### The DMA engine and the timers -/

theorem keepsHostOwned_dmaAfterRefill (s : State) : KeepsHostOwned s (dmaAfterRefill s) := by
  obtain ⟨-, e⟩ | ⟨-, e⟩ := dmaAfterRefill_cases s <;> rw [e]
  · exact .of_eq rfl rfl rfl rfl rfl rfl
  · exact ⟨rfl, rfl, rfl, rfl, fun hp _ => stDriveReady_and_unusedStatus hp, fun hp _ => irDone_and_unusedReason hp⟩

theorem keepsHostOwned_burst (s : State) : KeepsHostOwned s (burst s) := by
  rw [burst_eq]
  exact (keepsHostOwned_dmaAfterRefill _).after_eq rfl rfl rfl rfl rfl rfl

theorem keepsHostOwned_playTimerFire {s t : State} (h : playTimerFire s = .next t) : KeepsHostOwned s t := by
  obtain ⟨-, rfl⟩ := playTimerFire_next h
  exact ⟨rfl, rfl, rfl, rfl, fun hp _ => stDriveReady_and_unusedStatus hp, fun hp _ => irDone_and_unusedReason hp⟩

/-! ### Every instruction -/

/-- An instruction that answers a next state either is a byte write of a register, or leaves alone what only such
a write changes. -/
theorem byteWrite_or_keepsHostOwned {i : Instr} {s t : State} (h : exec i s = .next t) :
    (∃ r v, r ≠ .st ∧ i = r.writeInstr v ∧ t = s.setReg r v) ∨ KeepsHostOwned s t := by
  cases runs_of_exec h with
  | byteWrite r v hr => exact .inl ⟨r, v, hr, rfl, rfl⟩
  | byteRead r => exact .inr (keepsHostOwned_returnBus _ s)
  | commandWrite c => exact .inr (keepsHostOwned_onCommandWrite c s)
  | wideRead oo _ hnext => exact .inr (keepsHostOwned_wideRead hnext)
  | wideWrite oo w => exact .inr (keepsHostOwned_wideWrite w s)
  | emptyRead oo => exact .inr (keepsHostOwned_returnBus 0 s)
  | emptyWrite oo => exact .inr (.refl s)
  | packet => exact .inr (keepsHostOwned_packetCommand s)
  | identify => exact .inr (keepsHostOwned_identifyCommand s)
  | setFeatures => exact .inr (keepsHostOwned_setFeaturesCommand s)
  | unrecognised c => exact .inr (.refl s)
  | wholePacket _ c _ => exact .inr (keepsHostOwned_sendPacket c s)
  | burstRequest a _ hnext =>
    obtain ⟨-, -, rfl⟩ := burstRequest_next hnext
    exact .inr (.of_eq rfl rfl rfl rfl rfl rfl)
  | dmaFire _ hnext =>
    obtain ⟨-, rfl⟩ := dmaTimerFire_next hnext
    exact .inr (keepsHostOwned_burst s)
  | playFire _ hnext => exact .inr (keepsHostOwned_playTimerFire hnext)
  | resetLine v => exact .inr (keepsHostOwned_resetEdge v s)

/-! ### A byte write -/

/-- A byte write changes no register but its own (R101, R102). -/
theorem reg_setReg_of_ne {r q : TaskReg} (h : q ≠ r) (s : State) (v : Byte) : (s.setReg r v).reg q = s.reg q := by
  rw [reg_setReg, if_neg h]

@[simp] theorem setReg_params (s : State) (r : TaskReg) (v : Byte) : (s.setReg r v).params = s.params := by
  cases r <;> rfl

/-- Settles O56: a byte write changes its own register, and every other instruction leaves the latches alone. -/
theorem latchesChangeOnlyByTheirOwnWrite : Obligations.LatchesChangeOnlyByTheirOwnWrite := by
  intro i s t h
  obtain ⟨r, v, -, rfl, rfl⟩ | keeps := byteWrite_or_keepsHostOwned h
  · refine ⟨fun hdl => ?_, fun hsc => ?_, fun hds => ?_, setReg_params s r v⟩
    · exact reg_setReg_of_ne (q := .dl) (by rintro rfl; exact hdl v rfl) s v
    · exact reg_setReg_of_ne (q := .sc) (by rintro rfl; exact hsc v rfl) s v
    · exact reg_setReg_of_ne (q := .ds) (by rintro rfl; exact hds v rfl) s v
  · exact ⟨fun _ => keeps.dl, fun _ => keeps.sc, fun _ => keeps.ds, keeps.params⟩

/-- Settles O55: a byte write of another register leaves `IR`, and the block's own operations set no unused bit. -/
theorem onlyTheHostSetsReasonBitsAboveIo : Obligations.OnlyTheHostSetsReasonBitsAboveIo := by
  intro i s t hp hi h hclear
  obtain ⟨r, v, -, rfl, rfl⟩ | keeps := byteWrite_or_keepsHostOwned h
  · have kept : (s.setReg r v).ir = s.ir := reg_setReg_of_ne (q := .ir) (by rintro rfl; exact hi v rfl) s v
    rwa [kept]
  · simpa only [ReasonClear, keeps.params] using keeps.reason hp hclear

/-- No instruction sets an unused status bit: no byte write reaches `ST`, and the block sets none (R27, R103). -/
theorem exec_status_clear {i : Instr} {s t : State} (hp : s.params.wf = true) (hclear : StatusClear s)
    (h : exec i s = .next t) : t.st &&& unusedStatus s.params = 0 := by
  obtain ⟨r, v, hr, rfl, rfl⟩ | keeps := byteWrite_or_keepsHostOwned h
  · have kept : (s.setReg r v).st = s.st := reg_setReg_of_ne (q := .st) hr.symm s v
    rwa [kept]
  · simpa only [StatusClear, keeps.params] using keeps.status hp hclear

/-- Settles O54: a step runs one instruction on the state without its event, or does nothing. -/
theorem unusedStatusBitsStayClear : Obligations.UnusedStatusBitsStayClear := by
  intro s t hp hclear h
  obtain ⟨-, rfl⟩ | ⟨x, xs, i, -, -, hexec⟩ := step_next h
  · exact hclear
  · exact exec_status_clear (s := { s with inbox := xs }) hp hclear hexec

end Sys2Proof.Machine
end

section
/-! SUPPORT. Every step keeps the invariant of R43: first the updates the operations are made of, each with the condition
under which it keeps `Inv`, then one lemma per operation, then every instruction. In `{ h with .. }` the fields named are
those the update bears on; the others speak of what it leaves. -/

namespace Sys2Proof.Machine

/-! ### The updates -/

/-- Outside MODE_PARAM_WAIT no parameter word is expected (R43(e)). -/
theorem Inv.modeExpect_eq_zero {s : State} (h : Inv s) (hs : s.seq ≠ .modeParamWait) : s.modeExpect = 0 := by
  have notExpected : ¬1 ≤ s.modeExpect := fun hm => hs (h.mode_iff.mpr hm)
  omega

/-- With no word collected, the sequencer may leave for any state that collects none. -/
theorem Inv.enter {s : State} (h : Inv s) (hcount : s.pktCount = 0) (hs : s.seq ≠ .modeParamWait) {q : Seq}
    (hbuild : q ≠ .packetBuild) (hwait : q ≠ .modeParamWait) : Inv { s with seq := q } :=
  { h with
    pkt_zero := fun _ => hcount
    mode_iff := iff_of_false hwait (by simp [h.modeExpect_eq_zero hs])
    mode_len := fun e => absurd e hwait
    build_idle := fun e => absurd e hbuild }

/-- The change from one sequencer state to another, neither of which collects words, where it applies. -/
theorem Inv.enter_if {s : State} (h : Inv s) {p q : Seq} (hp : p ≠ .packetBuild) (hp' : p ≠ .modeParamWait)
    (hq : q ≠ .packetBuild) (hq' : q ≠ .modeParamWait) : Inv { s with seq := if s.seq = p then q else s.seq } := by
  split
  · next hs => exact h.enter (h.pkt_zero (hs ▸ hp)) (hs ▸ hp') hq hq'
  · exact h

/-- `n` bytes to deliver are split into a chunk and the rest; none are while a packet is built (R123, R143). -/
theorem Inv.announce {s : State} (h : Inv s) (n : Nat) (hn : s.seq = .packetBuild → n = 0) :
    Inv { s with chunkRemaining := min n maxTransferSize, totalRemaining := n - min n maxTransferSize } :=
  { h with
    chunk_le := Nat.min_le_right n maxTransferSize
    chunk_zero := by simp only [maxTransferSize]; omega
    build_idle := fun e => by
      obtain ⟨-, -, hrb⟩ := h.build_idle e
      simpa [hn e] using hrb }

/-- Words staged from the start of the buffer (R35). -/
theorem Inv.staged {s : State} (h : Inv s) (hbuild : s.seq ≠ .packetBuild) (ws : List Word) (hlen : ws.length ≤ 32768) :
    Inv { s with rb := ws, readPointer := 0 } :=
  { h with
    written_le := hlen
    pointer_le := Nat.zero_le _
    empty_reset := Eq.symm
    build_idle := fun e => absurd e hbuild }

/-- Clearing the state of the last command; the sequencer may then be anywhere but in MODE_PARAM_WAIT (R44). -/
theorem Inv.cleared {s : State} (h : Inv s) {q : Seq} (hwait : q ≠ .modeParamWait) :
    Inv { clearCommandState s with seq := q } :=
  { h with
    chunk_le := Nat.zero_le _
    chunk_zero := fun _ => rfl
    written_le := Nat.zero_le _
    pointer_le := Nat.le_refl _
    empty_reset := fun _ => rfl
    pkt_le := Nat.zero_le _
    pkt_zero := fun _ => rfl
    mode_iff := iff_of_false hwait (by simp)
    mode_len := fun e => absurd e hwait
    mode_empty := fun _ => rfl
    mode_max := Nat.zero_le _
    build_idle := fun _ => ⟨rfl, rfl, rfl⟩ }

/-! ### Reset, the byte path and the task-file commands -/

theorem inv_returnBus {s : State} (h : Inv s) (v : DWord) : Inv (returnBus v s) := { h with }

theorem inv_setReg {s : State} (h : Inv s) (r : TaskReg) (v : Byte) : Inv (s.setReg r v) := by
  cases r <;> exact { h with }

theorem inv_resetEdge {s : State} (h : Inv s) (v : DWord) : Inv (resetEdge v s) := by
  rw [resetEdge_eq]
  split
  · exact { h.cleared (q := .ready) (by decide) with }
  · exact { h with }

theorem inv_packetCommand {s : State} (h : Inv s) : Inv (packetCommand s) :=
  { h.cleared (q := .packetBuild) (by decide) with }

theorem identifyBlock_length : identifyBlock.length = 256 := by simp [identifyBlock, identifyWords]

theorem inv_identifyCommand {s : State} (h : Inv s) : Inv (identifyCommand s) :=
  have cleared : Inv { clearCommandState s with seq := .dataPio } := h.cleared (by decide)
  { cleared.staged (by simp) identifyBlock (by simp [identifyBlock_length]) with }

theorem inv_setFeaturesCommand {s : State} (h : Inv s) : Inv (setFeaturesCommand s) :=
  { h.cleared (q := .ready) (by decide) with }

theorem inv_onCommandWrite {s : State} (h : Inv s) (c : Byte) : Inv (onCommandWrite c s) := by
  obtain ⟨-, e⟩ | ⟨-, e⟩ | ⟨-, e⟩ | ⟨-, e⟩ := onCommandWrite_cases c s <;> rw [e]
  · exact inv_packetCommand h
  · exact inv_identifyCommand h
  · exact inv_setFeaturesCommand h
  · exact h

/-! ### The packet assembler -/

theorem inv_dispatchFailure {s : State} (h : Inv s) (hseq : s.seq = .packetBuild) (hcount : s.pktCount = 0) :
    Inv (dispatchFailure s) :=
  { h.enter hcount (by simp [hseq]) (q := .complete) (by decide) (by decide) with }

/-- The announcement leaves PACKET_BUILD for COMPLETE or DATA_WAIT, then the bytes are announced (R123, R124). -/
theorem inv_announceTransfer {s : State} (h : Inv s) (hseq : s.seq = .packetBuild) (hcount : s.pktCount = 0) (n : Nat) :
    Inv (announceTransfer (seedTransfer n s)) := by
  rw [announceTransfer_eq]
  have leaves : ∀ q : Seq, q ≠ .packetBuild → q ≠ .modeParamWait →
      Inv { s with seq := q, chunkRemaining := min n maxTransferSize, totalRemaining := n - min n maxTransferSize } :=
    fun q hbuild hwait => (h.enter hcount (by simp [hseq]) hbuild hwait).announce n fun e => absurd e hbuild
  exact { leaves (if (seedTransfer n s).chunkRemaining = 0 then .complete else .dataWait)
    (by split <;> decide) (by split <;> decide) with }

/-- A MODE SELECT expects at most 32767 words, whatever the length parameter (R33, R82). -/
theorem modeSelectWords_le (f : LengthField) (c : Cdb) : modeSelectWords f c ≤ 32767 := by
  have hlen : modeSelectLen f c < 65536 := by
    cases f with
    | parameterListLength =>
      have h7 := c.tail.b7.isLt
      have h8 := c.tail.b8.isLt
      simp only [modeSelectLen]
      omega
    | table entries => exact BitVec.isLt _
  simp only [modeSelectWords]
  omega

theorem inv_opcodeSideEffect {s : State} (h : Inv s) (hcount : s.pktCount = 0) (c : Cdb) : Inv (opcodeSideEffect c s) := by
  obtain ⟨-, e⟩ | ⟨-, e⟩ | ⟨-, hwords, e⟩ | ⟨-, -, e⟩ | ⟨-, e⟩ | ⟨-, e⟩ := opcodeSideEffect_cases c s <;> rw [e]
  · exact { h with }
  · exact { h with }
  · exact { h with
      pkt_zero := fun _ => hcount
      mode_iff := iff_of_true rfl hwords
      mode_len := fun _ => hwords
      mode_empty := fun _ => rfl
      mode_max := modeSelectWords_le _ c
      build_idle := nofun }
  · exact h
  · exact { h with }
  · exact h

theorem inv_dispatchSuccess {s : State} (h : Inv s) (hseq : s.seq = .packetBuild) (hcount : s.pktCount = 0) (n : Nat)
    (c : Cdb) : Inv (dispatchSuccess n c s) := by
  refine inv_opcodeSideEffect (inv_announceTransfer h hseq hcount n) ?_ c
  rw [announceTransfer_eq]
  exact hcount

/-- The dispatch counts its packet as taken before it calls the device, so `Inv` is asked of the words before the
sixth (R43(d), R122). -/
theorem inv_dispatch {s : State} (h : Inv s) (hseq : s.seq = .packetBuild) (p : Vector Word 6) :
    Inv (dispatch { s with pkt := p, pktCount := 6 }) := by
  have taken : ∀ (d : Device) (os : List Output), Inv { s with pkt := p, pktCount := 0, dev := d, out := os } :=
    fun d os => { h with pkt_le := Nat.zero_le _, pkt_zero := fun _ => rfl }
  obtain ⟨-, e⟩ | ⟨n, -, e⟩ := dispatch_cases { s with pkt := p, pktCount := 6 } <;> rw [e]
  · exact inv_dispatchFailure (taken _ _) hseq rfl
  · exact inv_dispatchSuccess (taken _ _) hseq rfl n _

/-- The completion clears the parameter buffer, so `Inv` is asked of the words before the last (R43(e), R133). -/
theorem inv_modeParamComplete {s : State} (h : Inv s) (hseq : s.seq = .modeParamWait) (ws : List Word) :
    Inv (modeParamComplete { s with modeBuf := ws }) := by
  rw [modeParamComplete_eq]
  exact { h with
    chunk_le := Nat.zero_le _
    chunk_zero := fun _ => rfl
    pkt_zero := fun _ => h.pkt_zero (by simp [hseq])
    mode_iff := by simp
    mode_len := nofun
    mode_empty := fun _ => rfl
    mode_max := Nat.zero_le _
    build_idle := nofun }

theorem inv_wideWrite {s : State} (h : Inv s) (w : Word) : Inv (wideWrite w s) := by
  obtain ⟨hseq, -, e⟩ | ⟨hseq, hcount, e⟩ | ⟨hseq, -, e⟩ | ⟨hseq, hlen, e⟩ | ⟨-, -, e⟩ := wideWrite_cases w s <;> rw [e]
  · exact inv_dispatch h hseq _
  · have hle := h.pkt_le
    exact { h with
      pkt_le := by simp only; omega
      pkt_zero := fun hne => absurd hseq hne }
  · exact inv_modeParamComplete h hseq _
  · have hlt := h.mode_len hseq
    exact { h with
      mode_len := fun _ => by simp only [List.length_append, List.length_singleton]; omega
      mode_empty := fun hzero => by simp only at hzero; omega }
  · exact h

theorem inv_sendPacket {s : State} (h : Inv s) (c : Cdb) : Inv (sendPacket c s) := by
  obtain ⟨p, -, e⟩ := sendPacket_eq c s
  rw [e]
  exact inv_dispatch (inv_packetCommand h) rfl p

/-! ### The PIO engine -/

theorem inv_stage {s : State} (h : Inv s) (hbuild : s.seq ≠ .packetBuild) : Inv (stage s) := by
  have hchunk := h.chunk_le
  have hlen : (packWords (s.dev.nextBytes s.chunkRemaining)).length ≤ 32768 := by
    rw [packWords_length, Device.nextBytes_length]
    omega
  rw [stage_eq]
  exact { (h.staged hbuild _ hlen).announce s.totalRemaining (fun e => absurd e hbuild) with }

theorem stageIfEmpty_seq (s : State) : (stageIfEmpty s).seq = s.seq := by
  unfold stageIfEmpty
  split
  · rw [stage_eq]
  · rfl

theorem inv_stageIfEmpty {s : State} (h : Inv s) (hbuild : s.seq ≠ .packetBuild) : Inv (stageIfEmpty s) := by
  unfold stageIfEmpty
  split
  · exact inv_stage h hbuild
  · exact h

theorem inv_popWord {s : State} (h : Inv s) (hbuild : s.seq ≠ .packetBuild) (hwait : s.seq ≠ .modeParamWait)
    (hlt : s.readPointer < s.writtenLength) : Inv (popWord s) := by
  have emptied : Inv { s with rb := [], readPointer := 0 } := h.staged hbuild [] (Nat.zero_le _)
  obtain ⟨-, -, e⟩ | ⟨-, -, e⟩ | ⟨hnext, e⟩ := popWord_cases s <;> rw [e]
  · exact { emptied.enter (h.pkt_zero hbuild) hwait (q := .complete) (by decide) (by decide) with }
  · exact emptied
  · exact { h with
      pointer_le := hlt
      empty_reset := fun hend => absurd hend hnext }

theorem inv_popOrZero {s : State} (h : Inv s) (hbuild : s.seq ≠ .packetBuild) (hwait : s.seq ≠ .modeParamWait) :
    Inv (popOrZero s) := by
  obtain ⟨hlt, e⟩ | ⟨-, e⟩ := popOrZero_cases s <;> rw [e]
  · exact inv_returnBus (inv_popWord h hbuild hwait hlt) _
  · exact inv_returnBus h 0

theorem inv_pioRead {s : State} (h : Inv s) (hbuild : s.seq ≠ .packetBuild) (hwait : s.seq ≠ .modeParamWait) :
    Inv (pioRead s) :=
  inv_popOrZero (inv_stageIfEmpty h hbuild) (by rwa [stageIfEmpty_seq]) (by rwa [stageIfEmpty_seq])

theorem inv_wideRead {s t : State} (h : Inv s) (hnext : wideRead s = .next t) : Inv t := by
  obtain ⟨-, rfl⟩ | ⟨hseq, rfl⟩ | ⟨hseq, rfl⟩ := wideRead_next hnext
  · exact inv_returnBus h 0
  · have switched : Inv { s with seq := .dataPio } :=
      h.enter (h.pkt_zero (by simp [hseq])) (by simp [hseq]) (by decide) (by decide)
    exact inv_pioRead switched (by simp) (by simp)
  · obtain hseq | hseq | hseq := hseq <;> exact inv_pioRead h (by simp [hseq]) (by simp [hseq])

/-! ### The DMA engine and the timers -/

theorem inv_burstRequest {a : DWord} {s t : State} (h : Inv s) (hnext : burstRequest a s = .next t) : Inv t := by
  obtain ⟨-, haligned, rfl⟩ := burstRequest_next hnext
  exact { h.enter_if (p := .dataWait) (q := .dataDma) (by decide) (by decide) (by decide) (by decide) with
    dest_aligned := haligned }

theorem inv_dmaAfterRefill {s : State} (h : Inv s) : Inv (dmaAfterRefill s) := by
  obtain ⟨-, e⟩ | ⟨-, e⟩ := dmaAfterRefill_cases s <;> rw [e]
  · exact { h with }
  · exact { h.enter_if (p := .dataDma) (q := .complete) (by decide) (by decide) (by decide) (by decide) with }

/-- Advancing by whole words keeps the destination aligned, past the end of memory too (R55, R157). -/
theorem aligned_add_words {a : DWord} (h : a.toNat % 4 = 0) (k : Nat) : (a + 4 * BitVec.ofNat 32 k).toNat % 4 = 0 := by
  have four : (4 : DWord).toNat = 4 := rfl
  simp only [BitVec.toNat_add, BitVec.toNat_mul, BitVec.toNat_ofNat, four]
  omega

/-- The words of a chunk stored in memory from the destination up (R157). -/
theorem Inv.stored {s : State} (h : Inv s) (vs : List DWord) :
    Inv { s with mem := s.mem.storeAll s.dmaDest vs, dmaDest := s.dmaDest + 4 * BitVec.ofNat 32 vs.length } :=
  { h with
    dest_aligned := aligned_add_words h.dest_aligned vs.length
    mem_wf := Memory.wf_storeAll s.dmaDest vs h.mem_wf
    mem_addr := Memory.addr_lt_storeAll s.dmaDest vs h.mem_addr }

theorem inv_burst {s : State} (h : Inv s) : Inv (burst s) := by
  rw [burst_eq]
  have idle : s.seq = .packetBuild → s.totalRemaining = 0 := fun e => by
    obtain ⟨-, htotal, -⟩ := h.build_idle e
    exact htotal
  exact inv_dmaAfterRefill { (h.stored _).announce s.totalRemaining idle with }

theorem inv_playTimerFire {s t : State} (h : Inv s) (hnext : playTimerFire s = .next t) : Inv t := by
  obtain ⟨-, rfl⟩ := playTimerFire_next hnext
  exact { h with }

/-! ### Every step -/

/-- Every instruction that answers a next state keeps the invariant. -/
theorem inv_exec {i : Instr} {s t : State} (h : Inv s) (hexec : exec i s = .next t) : Inv t := by
  cases runs_of_exec hexec with
  | byteRead r => exact inv_returnBus h _
  | byteWrite r v _ => exact inv_setReg h r v
  | commandWrite c => exact inv_onCommandWrite h c
  | wideRead oo _ hnext => exact inv_wideRead h hnext
  | wideWrite oo w => exact inv_wideWrite h w
  | emptyRead oo => exact inv_returnBus h 0
  | emptyWrite oo => exact h
  | packet => exact inv_packetCommand h
  | identify => exact inv_identifyCommand h
  | setFeatures => exact inv_setFeaturesCommand h
  | unrecognised c => exact h
  | wholePacket _ c _ => exact inv_sendPacket h c
  | burstRequest a _ hnext => exact inv_burstRequest h hnext
  | dmaFire _ hnext =>
    obtain ⟨-, rfl⟩ := dmaTimerFire_next hnext
    exact inv_burst h
  | playFire _ hnext => exact inv_playTimerFire h hnext
  | resetLine v => exact inv_resetEdge h v

/-- Settles O53: a step runs one instruction on the state without its event, or does nothing. -/
theorem everyStepKeepsTheInvariant : Obligations.EveryStepKeepsTheInvariant := by
  intro s t h hstep
  obtain ⟨-, rfl⟩ | ⟨x, xs, i, -, -, hexec⟩ := step_next hstep
  · exact h
  · have dequeued : Inv { s with inbox := xs } := { h with }
    exact inv_exec dequeued hexec

end Sys2Proof.Machine
end

section
/-! SUPPORT. The invariant at construction (R202). What a command, a transfer and a PIO read leave of ErrorFeature and of
the two timers; then what ends a pending timer (R37, R38, R205) and what writes ErrorFeature (R22, R131, R171). -/

namespace Sys2Proof.Machine

/-- Settles O52: nothing is announced, staged or written, and the parameters are the defaults, which R8 permits. -/
theorem invariantHoldsAtReset : Obligations.InvariantHoldsAtReset where
  chunk_le := Nat.zero_le _
  chunk_zero _ := rfl
  written_le := Nat.zero_le _
  pointer_le := Nat.le_refl _
  empty_reset _ := rfl
  pkt_le := Nat.zero_le _
  pkt_zero _ := rfl
  mode_iff := by decide
  mode_len := nofun
  mode_empty _ := rfl
  mode_max := Nat.zero_le _
  build_idle := nofun
  dest_aligned := rfl
  mem_wf := rfl
  mem_addr := nofun
  params_wf := by decide

/-! ### What leaves ErrorFeature and the timers -/

/-- From `s` to `t` ErrorFeature and the two timers keep their values (R22, R37, R38). -/
structure LeavesErrorAndTimers (s t : State) : Prop where
  err : t.err = s.err
  dmaTimer : t.dmaTimer = s.dmaTimer
  playTimer : t.playTimer = s.playTimer

theorem LeavesErrorAndTimers.refl (s : State) : LeavesErrorAndTimers s s := ⟨rfl, rfl, rfl⟩

theorem LeavesErrorAndTimers.trans {s t u : State} (h : LeavesErrorAndTimers s t) (k : LeavesErrorAndTimers t u) :
    LeavesErrorAndTimers s u :=
  ⟨k.err.trans h.err, k.dmaTimer.trans h.dmaTimer, k.playTimer.trans h.playTimer⟩

theorem onCommandWrite_leavesErrorAndTimers (c : Byte) (s : State) : LeavesErrorAndTimers s (onCommandWrite c s) := by
  obtain ⟨-, e⟩ | ⟨-, e⟩ | ⟨-, e⟩ | ⟨-, e⟩ := onCommandWrite_cases c s <;> rw [e] <;> exact ⟨rfl, rfl, rfl⟩

theorem announceTransfer_leavesErrorAndTimers (n : Nat) (s : State) :
    LeavesErrorAndTimers s (announceTransfer (seedTransfer n s)) := by
  rw [announceTransfer_eq]
  exact ⟨rfl, rfl, rfl⟩

theorem stageIfEmpty_leavesErrorAndTimers (s : State) : LeavesErrorAndTimers s (stageIfEmpty s) := by
  unfold stageIfEmpty
  split
  · rw [stage_eq]
    exact ⟨rfl, rfl, rfl⟩
  · exact .refl s

theorem popWord_leavesErrorAndTimers (s : State) : LeavesErrorAndTimers s (popWord s) := by
  obtain ⟨-, -, e⟩ | ⟨-, -, e⟩ | ⟨-, e⟩ := popWord_cases s <;> rw [e] <;> exact ⟨rfl, rfl, rfl⟩

theorem popOrZero_leavesErrorAndTimers (s : State) : LeavesErrorAndTimers s (popOrZero s) := by
  obtain ⟨-, e⟩ | ⟨-, e⟩ := popOrZero_cases s <;> rw [e]
  · have popped := popWord_leavesErrorAndTimers s
    exact ⟨popped.err, popped.dmaTimer, popped.playTimer⟩
  · exact ⟨rfl, rfl, rfl⟩

theorem pioRead_leavesErrorAndTimers (s : State) : LeavesErrorAndTimers s (pioRead s) :=
  (stageIfEmpty_leavesErrorAndTimers s).trans (popOrZero_leavesErrorAndTimers _)

theorem wideRead_leavesErrorAndTimers {s t : State} (h : wideRead s = .next t) : LeavesErrorAndTimers s t := by
  obtain ⟨-, rfl⟩ | ⟨-, rfl⟩ | ⟨-, rfl⟩ := wideRead_next h
  · exact ⟨rfl, rfl, rfl⟩
  · have read := pioRead_leavesErrorAndTimers { s with seq := .dataPio }
    exact ⟨read.err, read.dmaTimer, read.playTimer⟩
  · exact pioRead_leavesErrorAndTimers s

/-! ### What ends a pending timer -/

/-- From `s` to `t` a pending timer stays pending (R37, R38). -/
structure KeepsPending (s t : State) : Prop where
  dma : s.dmaTimer ≠ .idle → t.dmaTimer ≠ .idle
  play : s.playTimer ≠ .idle → t.playTimer ≠ .idle

/-- An update that writes neither timer. -/
theorem KeepsPending.of_eq {s t : State} (hdma : t.dmaTimer = s.dmaTimer) (hplay : t.playTimer = s.playTimer) :
    KeepsPending s t :=
  ⟨fun h => hdma ▸ h, fun h => hplay ▸ h⟩

theorem KeepsPending.trans {s t u : State} (h : KeepsPending s t) (k : KeepsPending t u) : KeepsPending s u :=
  ⟨fun hs => k.dma (h.dma hs), fun hs => k.play (h.play hs)⟩

/-- An operation after an update that writes neither timer. -/
theorem KeepsPending.after_eq {s t u : State} (k : KeepsPending t u) (hdma : t.dmaTimer = s.dmaTimer)
    (hplay : t.playTimer = s.playTimer) : KeepsPending s u :=
  .trans (.of_eq hdma hplay) k

theorem LeavesErrorAndTimers.keepsPending {s t : State} (h : LeavesErrorAndTimers s t) : KeepsPending s t :=
  .of_eq h.dmaTimer h.playTimer

/-- PLAY arms its timer; no other operation code bears on one (R125, R128). -/
theorem opcodeSideEffect_keepsPending (c : Cdb) (s : State) : KeepsPending s (opcodeSideEffect c s) := by
  obtain ⟨-, e⟩ | ⟨-, e⟩ | ⟨-, -, e⟩ | ⟨-, -, e⟩ | ⟨-, e⟩ | ⟨-, e⟩ := opcodeSideEffect_cases c s <;> rw [e]
  case inr.inl => exact ⟨id, nofun⟩
  all_goals exact .of_eq rfl rfl

theorem dispatchSuccess_keepsPending (n : Nat) (c : Cdb) (s : State) : KeepsPending s (dispatchSuccess n c s) :=
  (announceTransfer_leavesErrorAndTimers n s).keepsPending.trans (opcodeSideEffect_keepsPending c _)

theorem dispatch_keepsPending (s : State) : KeepsPending s (dispatch s) := by
  obtain ⟨-, e⟩ | ⟨n, -, e⟩ := dispatch_cases s <;> rw [e]
  · exact .of_eq rfl rfl
  · exact (dispatchSuccess_keepsPending n _ _).after_eq rfl rfl

theorem wideWrite_keepsPending (w : Word) (s : State) : KeepsPending s (wideWrite w s) := by
  obtain ⟨-, -, e⟩ | ⟨-, -, e⟩ | ⟨-, -, e⟩ | ⟨-, -, e⟩ | ⟨-, -, e⟩ := wideWrite_cases w s <;> rw [e]
  case inl => exact (dispatch_keepsPending _).after_eq rfl rfl
  all_goals exact .of_eq rfl rfl

theorem sendPacket_keepsPending (c : Cdb) (s : State) : KeepsPending s (sendPacket c s) := by
  obtain ⟨p, -, e⟩ := sendPacket_eq c s
  rw [e]
  exact (dispatch_keepsPending _).after_eq rfl rfl

/-- A reset cancels no timer (R205). -/
theorem resetEdge_keepsPending (v : DWord) (s : State) : KeepsPending s (resetEdge v s) := by
  rw [resetEdge_eq]
  split <;> exact .of_eq rfl rfl

theorem setReg_keepsPending (s : State) (r : TaskReg) (v : Byte) : KeepsPending s (s.setReg r v) := by
  cases r <;> exact .of_eq rfl rfl

/-- A DMA fire writes neither ErrorFeature nor the PLAY timer (R157 to R160). -/
theorem burst_err_playTimer (s : State) : (burst s).err = s.err ∧ (burst s).playTimer = s.playTimer := by
  rw [burst_eq]
  generalize hmoved : refill _ = u
  have moved : u.err = s.err ∧ u.playTimer = s.playTimer := by subst hmoved; exact ⟨rfl, rfl⟩
  obtain ⟨-, e⟩ | ⟨-, e⟩ := dmaAfterRefill_cases u <;> rw [e] <;> exact moved

/-- An instruction that answers a next state is the fire of a timer, or keeps both timers pending. -/
theorem fire_or_keepsPending {i : Instr} {s t : State} (h : exec i s = .next t) :
    (i = .dmaFire ∧ t.playTimer = s.playTimer) ∨ (i = .playFire ∧ t.dmaTimer = s.dmaTimer) ∨ KeepsPending s t := by
  cases runs_of_exec h with
  | dmaFire _ hnext =>
    obtain ⟨-, rfl⟩ := dmaTimerFire_next hnext
    exact .inl ⟨rfl, (burst_err_playTimer s).right⟩
  | playFire _ hnext =>
    obtain ⟨-, rfl⟩ := playTimerFire_next hnext
    exact .inr (.inl ⟨rfl, rfl⟩)
  | burstRequest a _ hnext =>
    obtain ⟨-, -, rfl⟩ := burstRequest_next hnext
    exact .inr (.inr ⟨nofun, id⟩)
  | wideRead oo _ hnext => exact .inr (.inr (wideRead_leavesErrorAndTimers hnext).keepsPending)
  | commandWrite c => exact .inr (.inr (onCommandWrite_leavesErrorAndTimers c s).keepsPending)
  | wideWrite oo w => exact .inr (.inr (wideWrite_keepsPending w s))
  | wholePacket _ c _ => exact .inr (.inr (sendPacket_keepsPending c s))
  | resetLine v => exact .inr (.inr (resetEdge_keepsPending v s))
  | byteWrite r v _ => exact .inr (.inr (setReg_keepsPending s r v))
  | byteRead | emptyRead | emptyWrite | packet | identify | setFeatures | unrecognised =>
    exact .inr (.inr (.of_eq rfl rfl))

/-- Settles O51: the fire of one timer leaves the other, and every other instruction keeps both pending. -/
theorem onlyItsFireEndsAPendingTimer : Obligations.OnlyItsFireEndsAPendingTimer := by
  intro i s t h
  obtain ⟨rfl, hplay⟩ | ⟨rfl, hdma⟩ | keeps := fire_or_keepsPending h
  · exact ⟨fun hne => absurd rfl hne, fun _ hs => hplay ▸ hs⟩
  · exact ⟨fun _ hs => hdma ▸ hs, fun hne => absurd rfl hne⟩
  · exact ⟨fun _ => keeps.dma, fun _ => keeps.play⟩

/-! ### What writes ErrorFeature -/

theorem opcodeSideEffect_err (c : Cdb) (s : State) : (opcodeSideEffect c s).err = s.err := by
  obtain ⟨-, e⟩ | ⟨-, e⟩ | ⟨-, -, e⟩ | ⟨-, -, e⟩ | ⟨-, e⟩ | ⟨-, e⟩ := opcodeSideEffect_cases c s <;> rw [e]

theorem dispatchSuccess_err (n : Nat) (c : Cdb) (s : State) : (dispatchSuccess n c s).err = s.err :=
  (opcodeSideEffect_err c _).trans (announceTransfer_leavesErrorAndTimers n s).err

/-- The device rejects the packet of `s`, and `t` holds that packet and the error (R131, R171). -/
structure Rejects (s t : State) : Prop where
  answer : (s.dev.exec (cdbOfPacket s.pkt)).1 = .error
  pkt : t.pkt = s.pkt
  err : t.err = 0x50

/-- A dispatch leaves ErrorFeature, unless the device rejects the packet (R122, R131). -/
theorem dispatch_err_or_rejects (s : State) : (dispatch s).err = s.err ∨ Rejects s (dispatch s) := by
  obtain ⟨answer, e⟩ | ⟨n, -, e⟩ := dispatch_cases s
  · exact .inr ⟨answer, by rw [e]; rfl, by rw [e]; rfl⟩
  · exact .inl (by rw [e, dispatchSuccess_err])

/-- A wide write leaves ErrorFeature, unless it is the sixth word of a packet that the device rejects (R171). -/
theorem wideWrite_err_or_rejects (w : Word) (s : State) :
    (wideWrite w s).err = s.err ∨
      (s.seq = .packetBuild ∧ s.pktCount = 5 ∧
        (s.dev.exec (cdbOfPacket (wideWrite w s).pkt)).1 = .error ∧ (wideWrite w s).err = 0x50) := by
  obtain ⟨hseq, hcount, e⟩ | ⟨-, -, e⟩ | ⟨-, -, e⟩ | ⟨-, -, e⟩ | ⟨-, -, e⟩ := wideWrite_cases w s <;> rw [e]
  case inl =>
    obtain herr | rejects := dispatch_err_or_rejects { s with pkt := s.pkt.setIfInBounds s.pktCount w, pktCount := 6 }
    · exact .inl herr
    · exact .inr ⟨hseq, by omega, rejects.pkt ▸ rejects.answer, rejects.err⟩
  all_goals exact .inl rfl

/-- A whole packet leaves ErrorFeature, unless the device rejects it (R131). -/
theorem sendPacket_err_or_rejects (c : Cdb) (s : State) :
    (sendPacket c s).err = s.err ∨ ((s.dev.exec c).1 = .error ∧ (sendPacket c s).err = 0x50) := by
  obtain ⟨p, rfl, e⟩ := sendPacket_eq c s
  rw [e]
  obtain herr | rejects := dispatch_err_or_rejects { packetCommand s with pkt := p, pktCount := 6 }
  · exact .inl herr
  · exact .inr ⟨rejects.answer, rejects.err⟩

/-- The reset input leaves ErrorFeature or sets it to 0x01 (R200, R201). -/
theorem resetEdge_err (v : DWord) (s : State) : (resetEdge v s).err = s.err ∨ (resetEdge v s).err = 0x01 := by
  rw [resetEdge_eq]
  split
  · exact .inr rfl
  · exact .inl rfl

/-- A byte write leaves ErrorFeature, unless it is the write of ErrorFeature (R101). -/
theorem setReg_err (s : State) (r : TaskReg) (v : Byte) :
    (s.setReg r v).err = s.err ∨ r.writeInstr v = .wrReg1 (s.setReg r v).err := by
  by_cases hr : r = .err
  · subst hr
    exact .inr rfl
  · exact .inl (reg_setReg_of_ne (q := .err) (Ne.symm hr) s v)

/-- The five rows that encode as a packet, each with its operation code (R80, R81). -/
theorem packetRow_cases {p : Params} {i : Instr} {c : Cdb} (h : encode p i = .cdb c) :
    (∃ tail, i = .cdbTestUnitReadyBusReset tail ∧ c = ⟨opTestUnitReady, tail⟩) ∨
    (∃ tail, i = .cdbPlay tail ∧ c = ⟨opPlay, tail⟩) ∨
    (∃ tail, i = .cdbModeSelect tail ∧ c = ⟨opModeSelect, tail⟩) ∨
    (∃ tail, i = .cdbSetCdromSpeed tail ∧ c = ⟨opSetCdromSpeed, tail⟩) ∨
    (∃ op tail, i = .cdbGeneric op tail ∧ c = ⟨op, tail⟩) := by
  cases i with
  | cdbTestUnitReadyBusReset tail => exact .inl ⟨tail, rfl, (Input.cdb.inj h).symm⟩
  | cdbPlay tail => exact .inr (.inl ⟨tail, rfl, (Input.cdb.inj h).symm⟩)
  | cdbModeSelect tail => exact .inr (.inr (.inl ⟨tail, rfl, (Input.cdb.inj h).symm⟩))
  | cdbSetCdromSpeed tail => exact .inr (.inr (.inr (.inl ⟨tail, rfl, (Input.cdb.inj h).symm⟩)))
  | cdbGeneric op tail => exact .inr (.inr (.inr (.inr ⟨op, tail, rfl, (Input.cdb.inj h).symm⟩)))
  | nopAccess rw oo => cases rw <;> cases h
  | _ => cases h

/-- A well-formed packet row is the decoding of its packet (R81, R91). -/
theorem eq_decodeCdb_of_encode {p : Params} {i : Instr} {c : Cdb} (hwf : i.wf p = true) (h : encode p i = .cdb c) :
    i = decodeCdb c := by
  obtain ⟨tail, rfl, rfl⟩ | ⟨tail, rfl, rfl⟩ | ⟨tail, rfl, rfl⟩ | ⟨tail, rfl, rfl⟩ | ⟨op, tail, rfl, rfl⟩ :=
    packetRow_cases h
  case inr.inr.inr.inr => exact (decodeCdb_generic (by simpa [Instr.wf] using hwf) tail).symm
  all_goals rfl

/-- Settles O58: of the operations an instruction runs, four bear on ErrorFeature, each in one case. -/
theorem errorFeatureIsWrittenByThreeEvents : Obligations.ErrorFeatureIsWrittenByThreeEvents := by
  intro i s t hwf h
  cases runs_of_exec h with
  | byteWrite r v _ =>
    obtain kept | written := setReg_err s r v
    · exact .inl kept
    · exact .inr (.inl written)
  | resetLine v =>
    obtain kept | reset := resetEdge_err v s
    · exact .inl kept
    · exact .inr (.inr (.inl ⟨⟨v, rfl⟩, reset⟩))
  | wideWrite oo w =>
    obtain kept | rejects := wideWrite_err_or_rejects w s
    · exact .inl kept
    · exact .inr (.inr (.inr (.inl ⟨⟨oo, w, rfl⟩, rejects⟩)))
  | wholePacket _ c hc =>
    obtain kept | rejects := sendPacket_err_or_rejects c s
    · exact .inl kept
    · exact .inr (.inr (.inr (.inr ⟨c, eq_decodeCdb_of_encode hwf hc, rejects⟩)))
  | wideRead oo _ hnext => exact .inl (wideRead_leavesErrorAndTimers hnext).err
  | commandWrite c => exact .inl (onCommandWrite_leavesErrorAndTimers c s).err
  | burstRequest a _ hnext =>
    obtain ⟨-, -, rfl⟩ := burstRequest_next hnext
    exact .inl rfl
  | dmaFire _ hnext =>
    obtain ⟨-, rfl⟩ := dmaTimerFire_next hnext
    exact .inl (burst_err_playTimer s).left
  | playFire _ hnext =>
    obtain ⟨-, rfl⟩ := playTimerFire_next hnext
    exact .inl rfl
  | byteRead | emptyRead | emptyWrite | packet | identify | setFeatures | unrecognised => exact .inl rfl

end Sys2Proof.Machine
end

section
/-! SUPPORT. The Data byte latch, SectorCountTag and DriveSelect influence no operation of the block (R21, R24): each
operation does the same on a state with other values in the three latches, and keeps those values. -/

namespace Sys2Proof.Machine

/-- The state with other values in the latches DL, SC and DS (R21, R24). -/
def State.withLatches (a b c : Byte) (s : State) : State := { s with dl := a, sc := b, ds := c }

section
variable (a b c : Byte) (s : State)

theorem ite_withLatches (p : Prop) [Decidable p] (t u : State) :
    (if p then t else u).withLatches a b c = if p then t.withLatches a b c else u.withLatches a b c :=
  apply_ite (State.withLatches a b c) p t u

/-! ### Reset and the task-file commands -/

theorem resetEdge_withLatches (v : DWord) :
    resetEdge v (s.withLatches a b c) = (resetEdge v s).withLatches a b c := by
  simp only [resetEdge_eq, ite_withLatches]
  rfl

theorem onCommandWrite_withLatches (v : Byte) :
    onCommandWrite v (s.withLatches a b c) = (onCommandWrite v s).withLatches a b c := by
  simp only [onCommandWrite, ite_withLatches]
  rfl

/-! ### The packet assembler -/

theorem opcodeSideEffect_withLatches (p : Cdb) :
    opcodeSideEffect p (s.withLatches a b c) = (opcodeSideEffect p s).withLatches a b c := by
  simp only [opcodeSideEffect, modeSelectEffect, ite_withLatches]
  rfl

theorem announceTransfer_withLatches :
    announceTransfer (s.withLatches a b c) = (announceTransfer s).withLatches a b c := by
  rw [announceTransfer_eq, announceTransfer_eq]
  rfl

theorem dispatchSuccess_withLatches (n : Nat) (p : Cdb) :
    dispatchSuccess n p (s.withLatches a b c) = (dispatchSuccess n p s).withLatches a b c := by
  have seeded : seedTransfer n (s.withLatches a b c) = (seedTransfer n s).withLatches a b c := rfl
  rw [dispatchSuccess, seeded, announceTransfer_withLatches, opcodeSideEffect_withLatches, dispatchSuccess]

theorem dispatch_withLatches : dispatch (s.withLatches a b c) = (dispatch s).withLatches a b c := by
  have answer : (s.withLatches a b c).dev.exec (cdbOfPacket (s.withLatches a b c).pkt) = s.dev.exec (cdbOfPacket s.pkt) :=
    rfl
  simp only [dispatch, answer]
  rcases (s.dev.exec (cdbOfPacket s.pkt)).1 with n | _
  · exact dispatchSuccess_withLatches a b c
      (emit (.exec (cdbOfPacket s.pkt)) { s with pktCount := 0, dev := (s.dev.exec (cdbOfPacket s.pkt)).2 }) n _
  · rfl

theorem packetWord_withLatches (w : Word) :
    packetWord w (s.withLatches a b c) = (packetWord w s).withLatches a b c := by
  simp only [packetWord, ite_withLatches]
  exact if_congr Iff.rfl
    (dispatch_withLatches a b c { s with pkt := s.pkt.setIfInBounds s.pktCount w, pktCount := s.pktCount + 1 }) rfl

theorem modeParamWord_withLatches (w : Word) :
    modeParamWord w (s.withLatches a b c) = (modeParamWord w s).withLatches a b c := by
  simp only [modeParamWord, ite_withLatches]
  rfl

theorem wideWrite_withLatches (w : Word) : wideWrite w (s.withLatches a b c) = (wideWrite w s).withLatches a b c := by
  have seq : (s.withLatches a b c).seq = s.seq := rfl
  rw [wideWrite, wideWrite, seq]
  cases s.seq with
  | packetBuild => exact packetWord_withLatches a b c s w
  | modeParamWait => exact modeParamWord_withLatches a b c s w
  | ready | dataWait | dataPio | dataDma | complete => rfl

theorem sendPacket_withLatches (p : Cdb) :
    sendPacket p (s.withLatches a b c) = (sendPacket p s).withLatches a b c := by
  have command : packetCommand (s.withLatches a b c) = (packetCommand s).withLatches a b c := rfl
  simp only [sendPacket, packetOfCdb, List.foldl_cons, List.foldl_nil, command, wideWrite_withLatches]

/-! ### The PIO engine -/

theorem stage_withLatches : stage (s.withLatches a b c) = (stage s).withLatches a b c := by
  rw [stage_eq, stage_eq]
  rfl

theorem stageIfEmpty_withLatches :
    stageIfEmpty (s.withLatches a b c) = (stageIfEmpty s).withLatches a b c := by
  simp only [stageIfEmpty, stage_withLatches, ite_withLatches]
  rfl

theorem popWord_withLatches : popWord (s.withLatches a b c) = (popWord s).withLatches a b c := by
  simp only [popWord, ite_withLatches]
  rfl

theorem popOrZero_withLatches : popOrZero (s.withLatches a b c) = (popOrZero s).withLatches a b c := by
  simp only [popOrZero, popWord_withLatches, ite_withLatches]
  rfl

theorem pioRead_withLatches : pioRead (s.withLatches a b c) = (pioRead s).withLatches a b c := by
  rw [pioRead, stageIfEmpty_withLatches, popOrZero_withLatches, pioRead]

/-! ### The DMA engine and the timers -/

theorem dmaAfterRefill_withLatches :
    dmaAfterRefill (s.withLatches a b c) = (dmaAfterRefill s).withLatches a b c := by
  simp only [dmaAfterRefill, ite_withLatches]
  rfl

theorem burst_withLatches : burst (s.withLatches a b c) = (burst s).withLatches a b c := by
  rw [burst_eq, burst_eq, ← dmaAfterRefill_withLatches]
  rfl

/-! ### The instructions that may be refused -/

variable {s} {t : State}

theorem wideRead_withLatches (h : wideRead s = .next t) : wideRead (s.withLatches a b c) = .next (t.withLatches a b c) := by
  have seq : (s.withLatches a b c).seq = s.seq := rfl
  unfold wideRead
  obtain ⟨hseq | hseq, rfl⟩ | ⟨hseq, rfl⟩ | ⟨hseq | hseq | hseq, rfl⟩ := wideRead_next h <;> rw [seq, hseq]
  case inr.inl => exact congrArg Host.Outcome.next (pioRead_withLatches a b c { s with seq := .dataPio })
  case inl.inl | inl.inr => rfl
  all_goals exact congrArg Host.Outcome.next (pioRead_withLatches a b c s)

theorem burstRequest_withLatches {d : DWord} (h : burstRequest d s = .next t) :
    burstRequest d (s.withLatches a b c) = .next (t.withLatches a b c) := by
  obtain ⟨hseq, haligned, rfl⟩ := burstRequest_next h
  have notPio : ¬(s.withLatches a b c).seq = .dataPio := hseq
  rw [burstRequest, if_neg notPio, if_neg (not_not_intro haligned)]
  rfl

theorem dmaTimerFire_withLatches (h : dmaTimerFire s = .next t) :
    dmaTimerFire (s.withLatches a b c) = .next (t.withLatches a b c) := by
  obtain ⟨⟨d, hd⟩, rfl⟩ := dmaTimerFire_next h
  have pending : (s.withLatches a b c).dmaTimer = .pending d := hd
  rw [dmaTimerFire, pending, ← burst_withLatches]

theorem playTimerFire_withLatches (h : playTimerFire s = .next t) :
    playTimerFire (s.withLatches a b c) = .next (t.withLatches a b c) := by
  obtain ⟨⟨d, hd⟩, rfl⟩ := playTimerFire_next h
  have pending : (s.withLatches a b c).playTimer = .pending d := hd
  rw [playTimerFire, pending]
  rfl

end

/-! ### Every instruction -/

/-- A packet row sends its packet (R80). -/
theorem exec_packetRow {p : Params} {i : Instr} {c : Cdb} (h : encode p i = .cdb c) (s : State) :
    exec i s = .next (sendPacket c s) := by
  obtain ⟨tail, rfl, rfl⟩ | ⟨tail, rfl, rfl⟩ | ⟨tail, rfl, rfl⟩ | ⟨tail, rfl, rfl⟩ | ⟨op, tail, rfl, rfl⟩ :=
    packetRow_cases h <;> rfl

/-- A byte read of a register that is no latch does the same whatever the latches hold (R100). -/
theorem exec_readInstr_withLatches (a b c : Byte) (s : State) {r : TaskReg} (hdl : r ≠ .dl) (hsc : r ≠ .sc)
    (hds : r ≠ .ds) : exec r.readInstr (s.withLatches a b c) = .next ((readTaskReg r s).withLatches a b c) := by
  cases r with
  | dl => exact absurd rfl hdl
  | sc => exact absurd rfl hsc
  | ds => exact absurd rfl hds
  | err | ir | bcl | bch | st => rfl

/-- A byte write of a register that is no latch does the same whatever the latches hold (R101). -/
theorem exec_writeInstr_withLatches (a b c : Byte) (s : State) (v : Byte) {r : TaskReg} (hst : r ≠ .st) (hdl : r ≠ .dl)
    (hsc : r ≠ .sc) (hds : r ≠ .ds) :
    exec (r.writeInstr v) (s.withLatches a b c) = .next ((s.setReg r v).withLatches a b c) := by
  cases r with
  | dl => exact absurd rfl hdl
  | sc => exact absurd rfl hsc
  | ds => exact absurd rfl hds
  | st => exact absurd rfl hst
  | err | ir | bcl | bch => rfl

/-- Settles O57: every operation an instruction runs commutes with other values in the latches, the reads and writes of
the latches themselves left out. -/
theorem latchesInfluenceNothing : Obligations.LatchesInfluenceNothing := by
  intro i s t a b c hread0 hread3 hread6 hwrite0 hwrite3 hwrite6 h
  change exec i (s.withLatches a b c) = .next (t.withLatches a b c)
  cases runs_of_exec h with
  | byteRead r =>
    exact exec_readInstr_withLatches a b c s (by rintro rfl; exact hread0 rfl) (by rintro rfl; exact hread3 rfl)
      (by rintro rfl; exact hread6 rfl)
  | byteWrite r v hst =>
    exact exec_writeInstr_withLatches a b c s v hst (by rintro rfl; exact hwrite0 v rfl)
      (by rintro rfl; exact hwrite3 v rfl) (by rintro rfl; exact hwrite6 v rfl)
  | wholePacket _ p hp => rw [exec_packetRow hp, sendPacket_withLatches]
  | commandWrite v => exact congrArg Host.Outcome.next (onCommandWrite_withLatches a b c s v)
  | wideWrite oo w => exact congrArg Host.Outcome.next (wideWrite_withLatches a b c s w)
  | resetLine v => exact congrArg Host.Outcome.next (resetEdge_withLatches a b c s v)
  | wideRead oo _ hnext => exact wideRead_withLatches a b c hnext
  | burstRequest d _ hnext => exact burstRequest_withLatches a b c hnext
  | dmaFire _ hnext => exact dmaTimerFire_withLatches a b c hnext
  | playFire _ hnext => exact playTimerFire_withLatches a b c hnext
  | emptyRead | emptyWrite | packet | identify | setFeatures | unrecognised => rfl

end Sys2Proof.Machine
end

section
/-! SUPPORT. What is refused by name (R51, R55, R140, R155, R162), and which offsets decode. -/

namespace Sys2Proof.Machine

theorem decode_bus_inside (p : Params) (rw : Dir) (m v : DWord) {o : Nat} (h : o < 4) :
    decode p (.bus rw o m v) = .ok (decodeSelector
      (selectorOf rw (BitVec.ofNat 2 o) (laneDecode p.laneDecode m).1 (laneDecode p.laneDecode m).2) v) := if_pos h

theorem decode_bus_outside (p : Params) (rw : Dir) (m v : DWord) {o : Nat} (h : 4 ≤ o) :
    decode p (.bus rw o m v) = .error (.offsetOutside o) := if_neg (by omega)

/-- A step refuses an event that decodes to no instruction (R51). -/
theorem step_refused {s : State} {x : Input} {xs : List Input} {e : DecodeError} (hinbox : s.inbox = x :: xs)
    (hdecode : decode s.params x = .error e) : step s = .refused (refusalOf e) := by
  simp only [step, fetch, hinbox, hdecode]

/-- Settles O4: the offset alone decides whether a bus access decodes. -/
theorem onlyOffsetsZeroToThreeDecode : Obligations.OnlyOffsetsZeroToThreeDecode := by
  intro rw o m v s xs
  constructor
  · intro inside
    exact ⟨_, decode_bus_inside s.params rw m v inside⟩
  · intro outside hinbox
    exact step_refused hinbox (decode_bus_outside s.params rw m v outside)

/-- Settles O43: each refusal is the branch of the operation that the condition selects. -/
theorem eventsWithoutMeaningAreRefusedByName : Obligations.EventsWithoutMeaningAreRefusedByName := by
  intro s oo a
  refine ⟨?duringDma, ?duringPio, ?misaligned, ?dmaIdle, ?playIdle⟩
  case duringDma =>
    intro hseq
    change wideRead s = _
    rw [wideRead, hseq]
  case duringPio => exact fun hseq => if_pos hseq
  case misaligned => exact fun hseq hmisaligned => (if_neg hseq).trans (if_pos hmisaligned)
  case dmaIdle =>
    intro hidle
    change dmaTimerFire s = _
    rw [dmaTimerFire, hidle]
  case playIdle =>
    intro hidle
    change playTimerFire s = _
    rw [playTimerFire, hidle]

end Sys2Proof.Machine
end

section
/-! SUPPORT. A parameter word: which case of a wide write it is, and the bytes it adds (R60, R132, R133). -/

namespace Sys2Proof.Machine

/-- The bytes of words, word by word, the low byte of each first (R60). -/
theorem bytesOfWords_eq_flatMap (ws : List Word) :
    bytesOfWords ws = ws.flatMap fun w => [w.extractLsb' 0 8, w.extractLsb' 8 8] := by
  induction ws with
  | nil => rfl
  | cons w ws ih => simp [bytesOfWords, lowByte, highByte, ih]

/-- In MODE_PARAM_WAIT a wide write is a parameter word (R120). -/
theorem wideWrite_modeParamWait {s : State} (hseq : s.seq = .modeParamWait) (w : Word) :
    wideWrite w s = modeParamWord w s := by
  rw [wideWrite, hseq]

theorem modeParamWord_more {s : State} {w : Word} (h : s.modeBuf.length + 1 ≠ s.modeExpect) :
    modeParamWord w s = { s with modeBuf := s.modeBuf ++ [w] } :=
  if_neg (by simpa using h)

theorem modeParamWord_last {s : State} {w : Word} (h : s.modeBuf.length + 1 = s.modeExpect) :
    modeParamWord w s = modeParamComplete { s with modeBuf := s.modeBuf ++ [w] } :=
  if_pos (by simpa using h)

/-- Settles O30: a word that is not the last is appended, the last one completes the parameter list. -/
theorem modeParameterWordsEndInWriteData : Obligations.ModeParameterWordsEndInWriteData := by
  intro s oo w hseq
  change (_ → Host.Outcome.next (wideWrite w s) = _) ∧ (_ → Host.Outcome.next (wideWrite w s) = _)
  rw [wideWrite_modeParamWait hseq]
  constructor
  · intro more
    rw [modeParamWord_more more]
  · intro last
    rw [modeParamWord_last last, modeParamComplete_eq, bytesOfWords_eq_flatMap]
    rfl

end Sys2Proof.Machine
end

section
/-! SUPPORT. Every operation but the pull-and-write loop of a DMA fire leaves system memory alone (R50). -/

namespace Sys2Proof.Machine

theorem setReg_mem (s : State) (r : TaskReg) (v : Byte) : (s.setReg r v).mem = s.mem := by
  cases r <;> rfl

theorem resetEdge_mem (v : DWord) (s : State) : (resetEdge v s).mem = s.mem := by
  rw [resetEdge_eq]
  split <;> rfl

theorem onCommandWrite_mem (c : Byte) (s : State) : (onCommandWrite c s).mem = s.mem := by
  obtain ⟨-, e⟩ | ⟨-, e⟩ | ⟨-, e⟩ | ⟨-, e⟩ := onCommandWrite_cases c s <;> rw [e] <;> rfl

theorem opcodeSideEffect_mem (c : Cdb) (s : State) : (opcodeSideEffect c s).mem = s.mem := by
  obtain ⟨-, e⟩ | ⟨-, e⟩ | ⟨-, -, e⟩ | ⟨-, -, e⟩ | ⟨-, e⟩ | ⟨-, e⟩ := opcodeSideEffect_cases c s <;> rw [e]

theorem dispatchSuccess_mem (n : Nat) (c : Cdb) (s : State) : (dispatchSuccess n c s).mem = s.mem := by
  rw [dispatchSuccess, opcodeSideEffect_mem, announceTransfer_eq, seedTransfer_mem]

theorem dispatch_mem (s : State) : (dispatch s).mem = s.mem := by
  obtain ⟨-, e⟩ | ⟨n, -, e⟩ := dispatch_cases s <;> rw [e]
  · rfl
  · exact dispatchSuccess_mem n _ _

theorem wideWrite_mem (w : Word) (s : State) : (wideWrite w s).mem = s.mem := by
  obtain ⟨-, -, e⟩ | ⟨-, -, e⟩ | ⟨-, -, e⟩ | ⟨-, -, e⟩ | ⟨-, -, e⟩ := wideWrite_cases w s <;> rw [e]
  · exact dispatch_mem _
  · rw [modeParamComplete_eq]

theorem sendPacket_mem (c : Cdb) (s : State) : (sendPacket c s).mem = s.mem := by
  obtain ⟨p, -, e⟩ := sendPacket_eq c s
  rw [e]
  exact dispatch_mem _

theorem stageIfEmpty_mem (s : State) : (stageIfEmpty s).mem = s.mem := by
  unfold stageIfEmpty
  split
  · rw [stage_eq]
  · rfl

theorem popWord_mem (s : State) : (popWord s).mem = s.mem := by
  obtain ⟨-, -, e⟩ | ⟨-, -, e⟩ | ⟨-, e⟩ := popWord_cases s <;> rw [e]

theorem popOrZero_mem (s : State) : (popOrZero s).mem = s.mem := by
  obtain ⟨-, e⟩ | ⟨-, e⟩ := popOrZero_cases s <;> rw [e]
  · exact popWord_mem s
  · rfl

theorem pioRead_mem (s : State) : (pioRead s).mem = s.mem :=
  (popOrZero_mem _).trans (stageIfEmpty_mem s)

theorem wideRead_mem {s t : State} (h : wideRead s = .next t) : t.mem = s.mem := by
  obtain ⟨-, rfl⟩ | ⟨-, rfl⟩ | ⟨-, rfl⟩ := wideRead_next h
  · rfl
  · exact pioRead_mem _
  · exact pioRead_mem s

/-- Settles O59: of the operations an instruction runs, the DMA fire alone stores words. -/
theorem onlyTheDmaFireWritesMemory : Obligations.OnlyTheDmaFireWritesMemory := by
  intro i s t hfire h
  cases runs_of_exec h with
  | dmaFire => exact absurd rfl hfire
  | byteWrite r v _ => exact setReg_mem s r v
  | commandWrite c => exact onCommandWrite_mem c s
  | wideRead oo _ hnext => exact wideRead_mem hnext
  | wideWrite oo w => exact wideWrite_mem w s
  | wholePacket _ c _ => exact sendPacket_mem c s
  | resetLine v => exact resetEdge_mem v s
  | burstRequest a _ hnext =>
    obtain ⟨-, -, rfl⟩ := burstRequest_next hnext
    rfl
  | playFire _ hnext =>
    obtain ⟨-, rfl⟩ := playTimerFire_next hnext
    rfl
  | byteRead | emptyRead | emptyWrite | packet | identify | setFeatures | unrecognised => rfl

end Sys2Proof.Machine
end

section
/-! SUPPORT. A chunk as the words the host and the memory receive: the packed bytes of the device as `resultWords` and
`resultDword` say them (R59, R61), and the sizes of its device reads (R141, R157). -/

namespace Sys2Proof.Machine

/-! ### The bytes of a result -/

theorem nextBytes_getD_eq_resultByte (d : Device) (c k : Nat) : (d.nextBytes c).getD k 0 = resultByte d c k :=
  Device.nextBytes_getD c k d

/-- A result continues where the bytes already read end (R57). -/
theorem resultByte_advance (d : Device) {m c : Nat} (h : m ≤ c) (k : Nat) :
    resultByte (d.advance m) (c - m) k = resultByte d c (m + k) := by
  simp only [resultByte, Device.byteAt_advance]
  exact if_congr (by omega) rfl rfl

theorem resultDword_advance (d : Device) {c : Nat} (m : Nat) (h : 4 * m ≤ c) (k : Nat) :
    resultDword (d.advance (4 * m)) (c - 4 * m) k = resultDword d c (m + k) := by
  simp only [resultDword, resultByte_advance d h, Nat.mul_add, Nat.add_assoc]

/-! ### Packing -/

/-- A list is given by its length and its entries. -/
theorem eq_map_range {α : Type} (xs : List α) (f : Nat → α) (fallback : α)
    (h : ∀ k < xs.length, xs.getD k fallback = f k) : xs = (List.range xs.length).map f := by
  refine List.ext_getElem (by simp) fun k hk _ => ?_
  rw [List.getElem_map, List.getElem_range, ← h k hk, List.getD_eq_getElem _ _ hk]

/-- The bytes of a chunk packed as words are the words of the result (R59, R141). -/
theorem packWords_nextBytes (d : Device) (c : Nat) : packWords (d.nextBytes c) = resultWords d c := by
  have words := eq_map_range (packWords (d.nextBytes c)) (resultWord d c) 0 fun k _ => by
    rw [packWords_getD, nextBytes_getD_eq_resultByte, nextBytes_getD_eq_resultByte]; rfl
  rwa [packWords_length, Device.nextBytes_length] at words

/-- The bytes of a chunk packed as 32-bit words are those of the result (R61, R157). -/
theorem packDwords_nextBytes (d : Device) (c : Nat) :
    packDwords (d.nextBytes c) = (List.range ((c + 3) / 4)).map (resultDword d c) := by
  have words := eq_map_range (packDwords (d.nextBytes c)) (resultDword d c) 0 fun k _ => by
    rw [packDwords_getD]
    simp only [nextBytes_getD_eq_resultByte]
    rfl
  rwa [packDwords_length, Device.nextBytes_length] at words

theorem packDwords_nextBytes_length (d : Device) (c : Nat) : (packDwords (d.nextBytes c)).length = (c + 3) / 4 := by
  rw [packDwords_length, Device.nextBytes_length]

theorem resultWords_length (d : Device) (c : Nat) : (resultWords d c).length = (c + 1) / 2 := by simp [resultWords]

theorem resultWords_getD_zero (d : Device) {c : Nat} (h : 0 < c) : (resultWords d c).getD 0 0 = resultWord d c 0 := by
  have nonempty : 0 < (c + 1) / 2 := by omega
  simp [resultWords, nonempty]

/-! ### The sizes of the device reads -/

/-- All reads but the last are of a whole sector (R141). -/
theorem sectorSizes_getElem?_of_more {c k : Nat} (h : k + 1 < sectorCount c) : (sectorSizes c)[k]? = some 2048 := by
  have whole : k < c / sectorSize := by
    simp only [sectorCount, sectorSize] at h ⊢
    omega
  rw [sectorSizes, List.getElem?_append_left (by simpa using whole), List.getElem?_replicate, if_pos whole]
  rfl

/-- The last read is of what is left (R141). -/
theorem sectorSizes_getLast? {c : Nat} (h : 0 < c) :
    (sectorSizes c).getLast? = some (c - 2048 * ((c - 1) / 2048)) := by
  by_cases whole : c % 2048 = 0
  · have count : c / 2048 ≠ 0 := by omega
    have left : c - 2048 * ((c - 1) / 2048) = 2048 := by omega
    simp [sectorSizes, sectorSize, whole, List.getLast?_replicate, count, left]
  · have left : c - 2048 * ((c - 1) / 2048) = c % 2048 := by omega
    simp [sectorSizes, sectorSize, whole, left]

end Sys2Proof.Machine
end

section
/-! SUPPORT. A wide read with an empty buffer and a chunk announced: it stages the chunk, then pops (R140 to R148). -/

namespace Sys2Proof.Machine

/-- The state in which a wide read runs `PioRead()`: DATA_WAIT becomes DATA_PIO (R140). -/
def State.onPioPath (s : State) : State := { s with seq := if s.seq = .dataWait then .dataPio else s.seq }

theorem onPioPath_of_ne {s : State} (h : s.seq ≠ .dataWait) : s.onPioPath = s := by
  rw [State.onPioPath, if_neg h]

/-- Outside the three states with a meaning of their own a wide read is `PioRead()` (R140). -/
theorem wideRead_eq_pioRead {s : State} (hbuild : s.seq ≠ .packetBuild) (hwait : s.seq ≠ .modeParamWait)
    (hdma : s.seq ≠ .dataDma) : wideRead s = .next (pioRead s.onPioPath) := by
  cases hseq : s.seq with
  | packetBuild => exact absurd hseq hbuild
  | modeParamWait => exact absurd hseq hwait
  | dataDma => exact absurd hseq hdma
  | dataWait => rw [wideRead, hseq, State.onPioPath, if_pos hseq]
  | ready | dataPio | complete => rw [onPioPath_of_ne (by simp [hseq]), wideRead, hseq]

/-- With an empty buffer and a chunk announced `PioRead()` stages it first (R148). -/
theorem pioRead_of_empty {s : State} (hempty : s.readPointer = s.writtenLength) (hchunk : 0 < s.chunkRemaining) :
    pioRead s = popOrZero (stage s) := by
  rw [pioRead, stageIfEmpty, if_pos ⟨hempty, hchunk⟩]

/-- A pop that leaves words staged (R145). -/
theorem popOrZero_of_more {s : State} (h : s.readPointer + 1 < s.writtenLength) :
    popOrZero s =
      { s with
        readPointer := s.readPointer + 1
        out := s.out ++ [.busRead (wideLane (s.rb.getD s.readPointer 0))] } := by
  rw [popOrZero, if_pos (Nat.lt_of_succ_lt h), popWord, if_neg (Nat.ne_of_lt h)]
  rfl

/-- No more is announced exactly when nothing remains (R143). -/
theorem min_maxTransferSize_eq_zero {n : Nat} : min n maxTransferSize = 0 ↔ n = 0 := by
  simp only [maxTransferSize]; omega

/-- The block after a chunk has been staged (R141 to R144). -/
def chunkStaged (s : State) : State :=
  { refilled s.totalRemaining s with
    rb := resultWords s.dev s.chunkRemaining
    readPointer := 0
    dev := s.dev.advance s.chunkRemaining
    st := if s.totalRemaining ≠ 0 then s.params.stDrq ||| s.params.stServiceDsc else s.st &&& ~~~s.params.stDrq
    ir := if s.totalRemaining ≠ 0 then s.params.irIo else s.params.irIo ||| s.params.irCommand
    out := s.out ++ ((sectorSizes s.chunkRemaining).map .readData ++ [.irq Config.irqVector]) }

theorem stage_eq_chunkStaged (s : State) : stage s = chunkStaged s := by
  rw [stage_eq, packWords_nextBytes, List.append_assoc]
  simp only [ne_eq, min_maxTransferSize_eq_zero]
  rfl

/-- A wide read that stages two words or more returns the first and leaves the others staged (R141, R145). -/
theorem wideRead_stages {s : State} (hbuild : s.seq ≠ .packetBuild) (hwait : s.seq ≠ .modeParamWait)
    (hdma : s.seq ≠ .dataDma) (hempty : s.readPointer = s.writtenLength) (hchunk : 3 ≤ s.chunkRemaining) :
    wideRead s = .next
      { chunkStaged s.onPioPath with
        readPointer := 1
        out := (chunkStaged s).out ++ [.busRead (wideLane (resultWord s.dev s.chunkRemaining 0))] } := by
  have announced : 0 < s.onPioPath.chunkRemaining := Nat.lt_of_lt_of_le (by decide) hchunk
  have more : (chunkStaged s.onPioPath).readPointer + 1 < (chunkStaged s.onPioPath).writtenLength := by
    change 0 + 1 < (resultWords s.dev s.chunkRemaining).length
    rw [resultWords_length]
    omega
  rw [wideRead_eq_pioRead hbuild hwait hdma, pioRead_of_empty (s := s.onPioPath) hempty announced,
    stage_eq_chunkStaged, popOrZero_of_more more, ← resultWords_getD_zero s.dev (c := s.chunkRemaining) announced]
  rfl

/-- Settles O37: the chunk is staged, and since it has two words or more the pop leaves the others in the buffer. -/
theorem firstReadStagesTheWholeChunk : Obligations.FirstReadStagesTheWholeChunk := by
  intro s oo hbuild hwait hdma hempty hchunk
  refine ⟨_, (sectorSizes s.chunkRemaining).map .readData ++ [.irq Config.irqVector] ++
    [.busRead (wideLane (resultWord s.dev s.chunkRemaining 0))],
    wideRead_stages hbuild hwait hdma hempty hchunk, List.append_assoc .., ?effects, ?words, rfl⟩
  case effects => simp [effects, Output.isBusRead]
  case words => simp [busWords, wideLane]

/-! ### The device reads of a staging and of a DMA fire -/

theorem bytesRead_filter (os : List Output) : bytesRead (os.filter Output.isReadData) = bytesRead os := by
  induction os with
  | nil => rfl
  | cons o os ih => cases o <;> simp [List.filter_cons, bytesRead, Output.isReadData, ih]

/-- A pop calls no device (R145, R147). -/
theorem popOrZero_readsNothing (s : State) :
    ∃ os, (popOrZero s).out = s.out ++ os ∧ os.filter Output.isReadData = [] := by
  obtain ⟨-, e⟩ | ⟨-, e⟩ := popOrZero_cases s <;> rw [e]
  · obtain ⟨-, -, e⟩ | ⟨-, -, e⟩ | ⟨-, e⟩ := popWord_cases s <;> rw [e]
    · exact ⟨_, List.append_assoc .., rfl⟩
    · exact ⟨_, rfl, rfl⟩
    · exact ⟨_, rfl, rfl⟩
  · exact ⟨_, rfl, rfl⟩

/-- The trace from `s` to `t` grows, and its device reads are the sectors of the chunk announced in `s` (R57). -/
def ReadsTheChunk (s t : State) : Prop :=
  ∃ os, t.out = s.out ++ os ∧ os.filter Output.isReadData = (sectorSizes s.chunkRemaining).map .readData

theorem pioRead_readsTheChunk {s : State} (hempty : s.readPointer = s.writtenLength) (hchunk : 0 < s.chunkRemaining) :
    ReadsTheChunk s (pioRead s) := by
  obtain ⟨os, hout, hnone⟩ := popOrZero_readsNothing (chunkStaged s)
  refine ⟨(sectorSizes s.chunkRemaining).map .readData ++ [.irq Config.irqVector] ++ os, ?_, ?_⟩
  · rw [pioRead_of_empty hempty hchunk, stage_eq_chunkStaged, hout, ← List.append_assoc]
    rfl
  · simp [hnone, List.filter_map, Function.comp_def, Output.isReadData]

/-- The device reads of `sectorSizes`, as O39 counts them: their number, their sizes and their sum. -/
theorem sectorReads_spec {os : List Output} {c : Nat} (hc : 0 < c)
    (h : os.filter Output.isReadData = (sectorSizes c).map .readData) :
    (os.filter Output.isReadData).length = (c + 2047) / 2048 ∧
      (∀ k, k + 1 < (c + 2047) / 2048 → (os.filter Output.isReadData)[k]? = some (.readData 2048)) ∧
      (os.filter Output.isReadData).getLast? = some (.readData (c - 2048 * ((c - 1) / 2048))) ∧
      bytesRead os = c := by
  rw [← bytesRead_filter, h]
  refine ⟨?_, fun k hk => ?_, ?_, ?_⟩
  · rw [List.length_map, sectorSizes_length]; rfl
  · rw [List.getElem?_map, sectorSizes_getElem?_of_more hk]; rfl
  · rw [List.getLast?_map, sectorSizes_getLast? hc]; rfl
  · rw [bytesRead_map_readData, sectorSizes_sum]

end Sys2Proof.Machine
end

section
/-! SUPPORT. A DMA fire in two parts: the chunk moves and the refill follows, then the timer is armed again or the
transfer completes (R157 to R160). -/

namespace Sys2Proof.Machine

/-- The memory once the next `n` bytes of the device have been stored from `a` up (R61, R157). -/
def Memory.storeResult (m : Memory) (a : DWord) (d : Device) (n : Nat) : Memory :=
  m.storeAll a (packDwords (d.nextBytes n))

/-- The block after a DMA fire has moved its chunk and refilled, before it is known whether a chunk follows. -/
def chunkMoved (s : State) : State :=
  { refilled s.totalRemaining s with
    dmaTimer := .idle
    mem := s.mem.storeResult s.dmaDest s.dev s.chunkRemaining
    dmaDest := s.dmaDest + BitVec.ofNat 32 (4 * ((s.chunkRemaining + 3) / 4))
    dev := s.dev.advance s.chunkRemaining
    out := s.out ++ burstTrace (sectorCount s.chunkRemaining) s.chunkRemaining s.dmaDest s.dev }

theorem fourTimes_ofNat (k : Nat) : 4 * BitVec.ofNat 32 k = BitVec.ofNat 32 (4 * k) := (BitVec.ofNat_mul 4 k).symm

theorem burst_eq_chunkMoved (s : State) : burst s = dmaAfterRefill (chunkMoved s) := by
  rw [burst_eq, packDwords_nextBytes_length, fourTimes_ofNat]
  rfl

/-- A fire that leaves bytes to deliver arms the timer for the next chunk (R159). -/
theorem burst_of_more {s : State} (h : s.totalRemaining ≠ 0) :
    burst s = { chunkMoved s with dmaTimer := .pending (burstDuration (min s.totalRemaining 63488)) } := by
  have announced : (chunkMoved s).chunkRemaining ≠ 0 := fun e => h (min_maxTransferSize_eq_zero.mp e)
  rw [burst_eq_chunkMoved, dmaAfterRefill, if_pos announced]
  rfl

/-- A fire that leaves nothing to deliver completes the transfer (R160). -/
theorem burst_of_last {s : State} (h : s.totalRemaining = 0) :
    burst s =
      { chunkMoved s with
        st := s.params.stDriveReady
        ir := s.params.irIo ||| s.params.irCommand
        seq := if s.seq = .dataDma then .complete else s.seq
        out := (chunkMoved s).out ++ [.irq Config.irqVector] } := by
  have nothingLeft : ¬(chunkMoved s).chunkRemaining ≠ 0 := not_not_intro (min_maxTransferSize_eq_zero.mpr h)
  rw [burst_eq_chunkMoved, dmaAfterRefill, if_neg nothingLeft]
  rfl

theorem burst_mem (s : State) : (burst s).mem = s.mem.storeResult s.dmaDest s.dev s.chunkRemaining := by
  by_cases h : s.totalRemaining = 0
  · rw [burst_of_last h]; rfl
  · rw [burst_of_more h]; rfl

theorem burst_out (s : State) :
    (burst s).out = s.out ++ burstTrace (sectorCount s.chunkRemaining) s.chunkRemaining s.dmaDest s.dev ++
      (if s.totalRemaining = 0 then [.irq Config.irqVector] else []) := by
  by_cases h : s.totalRemaining = 0
  · rw [burst_of_last h, if_pos h]; rfl
  · rw [burst_of_more h, if_neg h, List.append_nil]; rfl

/-- From a pending timer DMA_FIRE answers a next state (R157, R162). -/
theorem exec_dmaFire {s : State} {d : Nat} (h : s.dmaTimer = .pending d) : exec .dmaFire s = .next (burst s) := by
  change dmaTimerFire s = _
  rw [dmaTimerFire, h]

theorem burst_readsTheChunk (s : State) : ReadsTheChunk s (burst s) := by
  refine ⟨_, (burst_out s).trans (List.append_assoc ..), ?_⟩
  have irq : (if s.totalRemaining = 0 then [Output.irq Config.irqVector] else []).filter Output.isReadData = [] := by
    split <;> rfl
  rw [List.filter_append, filter_isReadData_burstTrace _ _ _ _ (le_refl _), irq, List.append_nil]

/-- Settles O39: both instructions read the sectors of the chunk, and nothing else they add is a device read. -/
theorem deviceReadsAreWholeSectors : Obligations.DeviceReadsAreWholeSectors := by
  intro i s hi hchunk
  have reads : ∃ t, exec i s = .next t ∧ ReadsTheChunk s t := by
    obtain ⟨⟨oo, rfl⟩, hbuild, hwait, hdma, hempty⟩ | ⟨rfl, htimer⟩ := hi
    · exact ⟨_, wideRead_eq_pioRead hbuild hwait hdma, pioRead_readsTheChunk (s := s.onPioPath) hempty hchunk⟩
    · cases hd : s.dmaTimer with
      | idle => exact absurd hd htimer
      | pending d => exact ⟨_, exec_dmaFire hd, burst_readsTheChunk s⟩
  obtain ⟨t, hexec, os, hout, hreads⟩ := reads
  exact ⟨t, os, hexec, hout, sectorReads_spec hchunk hreads⟩

end Sys2Proof.Machine
end

section
/-! SUPPORT. What lies in memory after words have been stored at rising addresses: the bytes of the result, and around
them what was there (R54, R55, R157). -/

namespace Sys2Proof.Machine

/-! ### One word -/

/-- Two bytes less than 2^32 apart have different addresses (R55). -/
theorem offset_inj (a : DWord) {j k : Nat} (hj : j < 2 ^ 32) (hk : k < 2 ^ 32)
    (h : (a + BitVec.ofNat 32 j).toNat = (a + BitVec.ofNat 32 k).toNat) : j = k := by
  simp only [BitVec.toNat_add, BitVec.toNat_ofNat] at h
  omega

theorem offset_add_four (a : DWord) (k : Nat) : a + 4 + BitVec.ofNat 32 k = a + BitVec.ofNat 32 (k + 4) := by
  rw [Nat.add_comm k 4, BitVec.ofNat_add, BitVec.add_assoc]
  rfl

/-- `Memory.read_write32` with the four addresses in one form. -/
theorem Memory.read_write32_offsets (m : Memory) (a v : DWord) (x : Nat) :
    (m.write32 a v).read x =
      if x = (a + BitVec.ofNat 32 3).toNat then some (v.extractLsb' 24 8)
      else if x = (a + BitVec.ofNat 32 2).toNat then some (v.extractLsb' 16 8)
      else if x = (a + BitVec.ofNat 32 1).toNat then some (v.extractLsb' 8 8)
      else if x = (a + BitVec.ofNat 32 0).toNat then some (v.extractLsb' 0 8)
      else m.read x := by
  rw [BitVec.add_zero]
  exact Memory.read_write32 m a v x

/-- A word write stores byte `r` of the word `r` bytes above its address (R54). -/
theorem Memory.read_write32_inside (m : Memory) (a v : DWord) {r : Nat} (hr : r < 4) :
    (m.write32 a v).read (a + BitVec.ofNat 32 r).toNat = some (v.extractLsb' (8 * r) 8) := by
  have sameOffset : ∀ k < 4, (a + BitVec.ofNat 32 r).toNat = (a + BitVec.ofNat 32 k).toNat ↔ r = k := fun k hk =>
    ⟨offset_inj a (by omega) (by omega), fun e => by rw [e]⟩
  rw [Memory.read_write32_offsets]
  simp only [sameOffset 0 (by decide), sameOffset 1 (by decide), sameOffset 2 (by decide), sameOffset 3 (by decide)]
  rcases (by omega : r = 0 ∨ r = 1 ∨ r = 2 ∨ r = 3) with rfl | rfl | rfl | rfl <;> rfl

/-- A word write leaves every byte but its four. -/
theorem Memory.read_write32_outside (m : Memory) (a v : DWord) {x : Nat}
    (h : ∀ r < 4, x ≠ (a + BitVec.ofNat 32 r).toNat) : (m.write32 a v).read x = m.read x := by
  rw [Memory.read_write32_offsets, if_neg (h 3 (by decide)), if_neg (h 2 (by decide)), if_neg (h 1 (by decide)),
    if_neg (h 0 (by decide))]

/-! ### Words at rising addresses -/

theorem Memory.read_storeAll_outside (m : Memory) (a : DWord) (vs : List DWord) {x : Nat}
    (h : ∀ k < 4 * vs.length, x ≠ (a + BitVec.ofNat 32 k).toNat) : (m.storeAll a vs).read x = m.read x := by
  induction vs generalizing m a with
  | nil => rfl
  | cons v vs ih =>
    rw [List.length_cons] at h
    have rest : ∀ k < 4 * vs.length, x ≠ (a + 4 + BitVec.ofNat 32 k).toNat := fun k hk => by
      rw [offset_add_four]
      exact h (k + 4) (by omega)
    rw [Memory.storeAll, ih (m.write32 a v) (a + 4) rest]
    exact Memory.read_write32_outside m a v fun r hr => h r (by omega)

/-- Byte `k` above the first address is byte `k % 4` of word `k / 4`, as long as the words do not wrap over each
other (R54, R55). -/
theorem Memory.read_storeAll_inside (m : Memory) (a : DWord) (vs : List DWord) (hlen : 4 * vs.length ≤ 2 ^ 32) {k : Nat}
    (hk : k < 4 * vs.length) :
    (m.storeAll a vs).read (a + BitVec.ofNat 32 k).toNat = some ((vs.getD (k / 4) 0).extractLsb' (8 * (k % 4)) 8) := by
  induction vs generalizing m a k with
  | nil => exact absurd hk (Nat.not_lt_zero k)
  | cons v vs ih =>
    rw [List.length_cons] at hlen hk
    rw [Memory.storeAll]
    by_cases first : k < 4
    · have above : ∀ j < 4 * vs.length, (a + BitVec.ofNat 32 k).toNat ≠ (a + 4 + BitVec.ofNat 32 j).toNat :=
        fun j hj e => by
          rw [offset_add_four] at e
          have same := offset_inj a (by omega) (by omega) e
          omega
      rw [Memory.read_storeAll_outside _ _ _ above, Memory.read_write32_inside m a v first, Nat.div_eq_of_lt first,
        Nat.mod_eq_of_lt first]
      rfl
    · obtain ⟨j, rfl⟩ : ∃ j, k = j + 4 := ⟨k - 4, by omega⟩
      rw [← offset_add_four, ih (m.write32 a v) (a + 4) (by omega) (by omega), Nat.add_div_right j (by decide),
        Nat.add_mod_right, List.getD_cons_succ]

/-! ### A result -/

/-- Each byte of a 32-bit word made of four (R61). -/
theorem dwordOfBytes_byte (b0 b1 b2 b3 : Byte) :
    (dwordOfBytes b0 b1 b2 b3).extractLsb' 0 8 = b0 ∧ (dwordOfBytes b0 b1 b2 b3).extractLsb' 8 8 = b1 ∧
      (dwordOfBytes b0 b1 b2 b3).extractLsb' 16 8 = b2 ∧ (dwordOfBytes b0 b1 b2 b3).extractLsb' 24 8 = b3 := by
  have low : ∀ {w : Nat} (x : BitVec w) (y : Byte), (x ++ y).extractLsb' 0 8 = y := fun x y =>
    BitVec.extractLsb'_append_eq_right
  have above : ∀ {w : Nat} (x : BitVec w) (y : Byte) (n : Nat), (x ++ y).extractLsb' (n + 8) 8 = x.extractLsb' n 8 :=
    fun x y n => BitVec.extractLsb'_append_eq_of_le (Nat.le_add_left 8 n)
  refine ⟨low (b3 ++ b2 ++ b1) b0, ?_, ?_, ?_⟩
  · exact (above (b3 ++ b2 ++ b1) b0 0).trans (low (b3 ++ b2) b1)
  · exact (above (b3 ++ b2 ++ b1) b0 8).trans ((above (b3 ++ b2) b1 0).trans (low b3 b2))
  · exact (above (b3 ++ b2 ++ b1) b0 16).trans
      ((above (b3 ++ b2) b1 8).trans ((above b3 b2 0).trans BitVec.extractLsb'_eq_self))

/-- Byte `r` of word `q` of a result is byte `4q + r` of the device's stream (R61). -/
theorem resultDword_byte (d : Device) (c q : Nat) {r : Nat} (hr : r < 4) :
    (resultDword d c q).extractLsb' (8 * r) 8 = resultByte d c (4 * q + r) := by
  obtain ⟨byte0, byte1, byte2, byte3⟩ := dwordOfBytes_byte (resultByte d c (4 * q)) (resultByte d c (4 * q + 1))
    (resultByte d c (4 * q + 2)) (resultByte d c (4 * q + 3))
  rcases (by omega : r = 0 ∨ r = 1 ∨ r = 2 ∨ r = 3) with rfl | rfl | rfl | rfl
  exacts [byte0, byte1, byte2, byte3]

/-- The bytes of the result lie in stream order from the destination up, zeros filling a short last word. -/
theorem Memory.read_storeResult_inside (m : Memory) (a : DWord) (d : Device) {n k : Nat}
    (hn : 4 * ((n + 3) / 4) ≤ 2 ^ 32) (hk : k < 4 * ((n + 3) / 4)) :
    (m.storeResult a d n).read (a + BitVec.ofNat 32 k).toNat = some (resultByte d n k) := by
  have word : (packDwords (d.nextBytes n)).getD (k / 4) 0 = resultDword d n (k / 4) := by
    have inside : k / 4 < (n + 3) / 4 := by omega
    simp [packDwords_nextBytes, inside]
  rw [← packDwords_nextBytes_length d n] at hn hk
  rw [Memory.storeResult, Memory.read_storeAll_inside m a _ hn hk, word,
    resultDword_byte d n (k / 4) (Nat.mod_lt k (by decide)), Nat.div_add_mod]

/-- Every byte but those of the result reads as before. -/
theorem Memory.read_storeResult_outside (m : Memory) (a : DWord) (d : Device) {n x : Nat}
    (h : ∀ k < 4 * ((n + 3) / 4), x ≠ (a + BitVec.ofNat 32 k).toNat) : (m.storeResult a d n).read x = m.read x :=
  Memory.read_storeAll_outside m a _ (by rwa [packDwords_nextBytes_length])

/-- Settles O46: a fire stores the result of its chunk, which is far too short to wrap over itself. -/
theorem dmaFireStoresTheChunkInStreamOrder : Obligations.DmaFireStoresTheChunkInStreamOrder := by
  intro s d htimer hchunk
  refine ⟨burst s, exec_dmaFire htimer, ?_⟩
  rw [burst_mem]
  constructor
  · exact fun k hk => Memory.read_storeResult_inside s.mem s.dmaDest s.dev (by omega) hk
  · exact fun a ha => Memory.read_storeResult_outside s.mem s.dmaDest s.dev ha

end Sys2Proof.Machine
end

section
/-! SUPPORT. The trace of a DMA fire sector by sector: the first sector is a device read and its words, and the others
are those of the chunk without it (R68, R157). -/

namespace Sys2Proof.Machine

/-- The writes of words at rising addresses, each with its address (R157). -/
theorem memWrites_eq_map (a : DWord) (vs : List DWord) :
    memWrites a vs =
      (List.range vs.length).map fun k => .memWrite (a + BitVec.ofNat 32 (4 * k)) (vs.getD k 0) := by
  induction vs generalizing a with
  | nil => rfl
  | cons v vs ih =>
    rw [memWrites, ih, List.length_cons, List.range_succ_eq_map, List.map_cons, List.map_map, Nat.mul_zero,
      BitVec.add_zero, List.getD_cons_zero]
    congr 1
    refine List.map_congr_left fun k _ => ?_
    rw [offset_add_four, Function.comp, List.getD_cons_succ, Nat.mul_succ]

/-- A byte of the first bytes of a result is that byte of the whole result. -/
theorem resultByte_min (d : Device) (c : Nat) {m k : Nat} (hk : k < m) : resultByte d (min c m) k = resultByte d c k :=
  if_congr (by omega) rfl rfl

/-- The first sector of a chunk: its read, then its words from the destination up (R157). -/
theorem sectorTrace_zero (d : Device) (a : DWord) (c : Nat) :
    sectorTrace d a c 0 =
      .readData (min c sectorSize) :: memWrites a (packDwords (d.nextBytes (min c sectorSize))) := by
  rw [memWrites_eq_map, packDwords_nextBytes_length]
  refine congrArg (List.cons _) (List.map_congr_left fun k hk => ?_)
  have inSector : k < (min c 2048 + 3) / 4 := List.mem_range.mp hk
  have word : (packDwords (d.nextBytes (min c sectorSize))).getD k 0 = resultDword d c k := by
    rw [packDwords_getD]
    simp only [nextBytes_getD_eq_resultByte, sectorSize]
    rw [resultByte_min d c (by omega), resultByte_min d c (by omega), resultByte_min d c (by omega),
      resultByte_min d c (by omega)]
    rfl
  rw [word, Nat.mul_zero, Nat.zero_add, Nat.zero_add]

/-- The sectors after the first are those of the rest of the chunk, from 2048 bytes above the destination. -/
theorem sectorTrace_succ (d : Device) (a : DWord) {c : Nat} (h : 2048 ≤ c) (j : Nat) :
    sectorTrace d a c (j + 1) = sectorTrace (d.advance 2048) (a + BitVec.ofNat 32 2048) (c - 2048) j := by
  have size : c - 2048 * (j + 1) = c - 2048 - 2048 * j := by omega
  rw [sectorTrace, sectorTrace, size]
  refine congrArg (List.cons _) (List.map_congr_left fun k _ => ?_)
  have address : 2048 * (j + 1) + 4 * k = 2048 + (2048 * j + 4 * k) := by omega
  have word : 512 * (j + 1) + k = 512 + (512 * j + k) := by omega
  rw [address, BitVec.ofNat_add, BitVec.add_assoc, word, ← resultDword_advance d 512 h]

/-- The trace of a DMA fire before its completion: sector by sector the read and the writes (R157). -/
theorem burstTrace_eq_flatMap {k c : Nat} (h : sectorCount c = k) (a : DWord) (d : Device) :
    burstTrace k c a d = (List.range k).flatMap (sectorTrace d a c) := by
  induction k generalizing c a d with
  | zero => rfl
  | succ k ih =>
    have nonzero : c ≠ 0 := by
      rintro rfl
      exact absurd h (Nat.succ_ne_zero k).symm
    have rest : sectorCount (c - min c sectorSize) = k := by
      have peeled := sectorCount_sub nonzero
      omega
    have tail : burstTrace k (c - min c sectorSize)
          (a + 4 * BitVec.ofNat 32 (packDwords (d.nextBytes (min c sectorSize))).length) (d.advance (min c sectorSize)) =
        (List.range k).flatMap fun j => sectorTrace d a c (j + 1) := by
      rw [ih rest]
      refine List.flatMap_congr fun j hj => ?_
      have more : 2048 ≤ c := by
        have inside := List.mem_range.mp hj
        simp only [sectorCount, sectorSize] at h
        omega
      rw [sectorTrace_succ d a more, packDwords_nextBytes_length, fourTimes_ofNat, sectorSize, Nat.min_eq_right more]
    rw [List.range_succ_eq_map, List.flatMap_cons, List.flatMap_map, sectorTrace_zero, ← tail, burstTrace,
      if_neg nonzero]

/-- Settles O47: the trace of the sectors, and the interrupt of a completion. -/
theorem dmaFireTraceIsReadsAndWritesInOrder : Obligations.DmaFireTraceIsReadsAndWritesInOrder := by
  intro s d htimer
  refine ⟨burst s, exec_dmaFire htimer, ?_⟩
  rw [burst_out, burstTrace_eq_flatMap rfl]
  rfl

end Sys2Proof.Machine
end

section
/-! SUPPORT. A whole transfer by DMA: each fire moves its chunk, and what its chunks store in turn is what one store of
the whole result would (R157 to R160, R165). -/

namespace Sys2Proof.Machine

/-! ### Runs -/

/-- A run begins with the event at the head of the queue. -/
theorem run_succ_of_exec {s t : State} {x : Input} {xs : List Input} {i : Instr} (hinbox : s.inbox = x :: xs)
    (hdecode : decode s.params x = .ok i) (hexec : exec i { s with inbox := xs } = .next t) (k : Nat) :
    Sys2Proof.core.run (k + 1) s = Sys2Proof.core.run k t := by
  have hstep : Sys2Proof.core.step s = .next t :=
    (stepRunsTheDecodedInstruction s x xs i hinbox hdecode).trans hexec
  simp only [Host.Core.run, hstep]

/-! ### The chunks of a result -/

/-- Storing a result whose length is a multiple of 4 and then the bytes after it stores both as one (R57, R157). -/
theorem Memory.storeResult_add (m : Memory) (a : DWord) (d : Device) {p : Nat} (hp : p % 4 = 0) (n : Nat) :
    (m.storeResult a d p).storeResult (a + BitVec.ofNat 32 p) (d.advance p) n = m.storeResult a d (p + n) := by
  have length : 4 * (packDwords (d.nextBytes p)).length = p := by
    rw [packDwords_nextBytes_length]
    omega
  rw [Memory.storeResult, Memory.storeResult, Memory.storeResult, Device.nextBytes_add,
    packDwords_append _ _ (by rwa [Device.nextBytes_length]), Memory.storeAll_append, fourTimes_ofNat, length]

@[simp] theorem irqCount_memWrites (a : DWord) (vs : List DWord) : irqCount (memWrites a vs) = 0 := by
  induction vs generalizing a with
  | nil => rfl
  | cons v vs ih => simpa [memWrites, irqCount, Output.isIrq] using ih (a + 4)

/-- Moving a chunk raises no interrupt (R157). -/
theorem irqCount_burstTrace (k c : Nat) (a : DWord) (d : Device) : irqCount (burstTrace k c a d) = 0 := by
  induction k generalizing c a d with
  | zero => rfl
  | succ k ih =>
    rw [burstTrace]
    split
    · rfl
    · rw [irqCount_append, ih, Nat.add_zero]
      simpa [irqCount, Output.isIrq] using irqCount_memWrites a _

/-! ### The transfer -/

/-- `n` bytes are left to deliver by DMA, the first chunk of them announced and its timer pending (R155, R159). -/
structure DmaUnderWay (n : Nat) (s : State) : Prop where
  seq : s.seq = .dataDma
  pending : ∃ d, s.dmaTimer = .pending d
  chunk : s.chunkRemaining = min n 63488
  total : s.totalRemaining = n - min n 63488

theorem DmaUnderWay.fire {n : Nat} {s : State} (h : DmaUnderWay n s) : exec .dmaFire s = .next (burst s) := by
  obtain ⟨d, hd⟩ := h.pending
  exact exec_dmaFire hd

theorem DmaUnderWay.withInbox {n : Nat} {s : State} (h : DmaUnderWay n s) (xs : List Input) :
    DmaUnderWay n { s with inbox := xs } :=
  ⟨h.seq, h.pending, h.chunk, h.total⟩

/-- A chunk before the last is a whole one (R159). -/
theorem DmaUnderWay.counts_of_more {n : Nat} {s : State} (h : DmaUnderWay (63488 + n) s) :
    s.chunkRemaining = 63488 ∧ s.totalRemaining = n := by
  have chunk := h.chunk
  have total := h.total
  omega

/-- The block after a transfer of `n` bytes by DMA, but for the queue and the trace (R160, R165). -/
def dmaDelivered (n : Nat) (s : State) : State :=
  { s with
    chunkRemaining := 0, totalRemaining := 0, bcl := 0x00, bch := 0x00, st := s.params.stDriveReady
    ir := s.params.irIo ||| s.params.irCommand, seq := .complete, dmaTimer := .idle
    mem := s.mem.storeResult s.dmaDest s.dev n
    dmaDest := s.dmaDest + BitVec.ofNat 32 (4 * ((n + 3) / 4)), dev := s.dev.advance n }

/-- The fire of the last chunk delivers it and raises the interrupt (R160). -/
theorem burst_delivers {n : Nat} {s : State} (h : DmaUnderWay n s) (hn : n ≤ 63488) :
    ∃ os, burst s = { dmaDelivered n s with out := s.out ++ os } ∧ irqCount os = 1 := by
  have chunk : s.chunkRemaining = n := h.chunk.trans (Nat.min_eq_left hn)
  have total : s.totalRemaining = 0 := by rw [h.total]; omega
  refine ⟨burstTrace (sectorCount n) n s.dmaDest s.dev ++ [.irq Config.irqVector], ?_, ?_⟩
  · rw [burst_of_last total, chunkMoved, h.seq, total, chunk, ← List.append_assoc]
    rfl
  · rw [irqCount_append, irqCount_burstTrace]
    rfl

/-- The fire of an earlier chunk leaves the rest of the transfer under way (R159). -/
theorem burst_underWay {n : Nat} {s : State} (h : DmaUnderWay (63488 + n) s) (hn : 0 < n) :
    DmaUnderWay n (burst s) := by
  obtain ⟨-, total⟩ := h.counts_of_more
  rw [burst_of_more (total ▸ hn.ne'), chunkMoved, total]
  exact ⟨h.seq, ⟨_, rfl⟩, rfl, rfl⟩

/-- What is delivered after the fire of an earlier chunk makes up the whole result (R157, R159). -/
theorem dmaDelivered_burst {n : Nat} {s : State} (h : DmaUnderWay (63488 + n) s) (hn : 0 < n) :
    dmaDelivered n (burst s) = { dmaDelivered (63488 + n) s with out := (burst s).out } := by
  obtain ⟨chunk, total⟩ := h.counts_of_more
  have whole : 4 * ((63488 + 3) / 4) = 63488 := by decide
  have words : 4 * ((63488 + n + 3) / 4) = 63488 + 4 * ((n + 3) / 4) := by omega
  have memory := Memory.storeResult_add s.mem s.dmaDest s.dev (p := 63488) (by decide) n
  simp only [burst_of_more (total ▸ hn.ne'), dmaDelivered, chunkMoved, refilled, chunk, whole, words, memory,
    BitVec.ofNat_add, BitVec.add_assoc, Device.advance_advance]

theorem burst_inbox (s : State) : (burst s).inbox = s.inbox := by
  by_cases h : s.totalRemaining = 0
  · rw [burst_of_last h]; rfl
  · rw [burst_of_more h]; rfl

/-- The fire of an earlier chunk raises no interrupt (R159). -/
theorem burst_silent {n : Nat} {s : State} (h : DmaUnderWay (63488 + n) s) (hn : 0 < n) :
    ∃ os, (burst s).out = s.out ++ os ∧ irqCount os = 0 := by
  obtain ⟨-, total⟩ := h.counts_of_more
  refine ⟨burstTrace (sectorCount s.chunkRemaining) s.chunkRemaining s.dmaDest s.dev, ?_, irqCount_burstTrace ..⟩
  rw [burst_out, if_neg (total ▸ hn.ne'), List.append_nil]

/-- As many fires as there are chunks deliver the whole result, with one interrupt (R165). -/
theorem run_dmaFires {k n : Nat} {s : State} {xs : List Input} (hk : (n + 63487) / 63488 = k) (hn : 0 < n)
    (h : DmaUnderWay n s) (hinbox : s.inbox = List.replicate k (.event 1 0) ++ xs) :
    ∃ os, Sys2Proof.core.run k s = .next { dmaDelivered n s with inbox := xs, out := s.out ++ os } ∧
      irqCount os = 1 := by
  induction k generalizing n s with
  | zero => omega
  | succ k ih =>
    have underWay := h.withInbox (List.replicate k (.event 1 0) ++ xs)
    rw [run_succ_of_exec hinbox rfl underWay.fire k]
    by_cases last : n ≤ 63488
    · obtain rfl : k = 0 := by omega
      obtain ⟨os, delivered, one⟩ := burst_delivers underWay last
      refine ⟨os, ?_, one⟩
      rw [delivered]
      rfl
    · obtain ⟨r, rfl⟩ : ∃ r, n = 63488 + r := ⟨n - 63488, by omega⟩
      have hr : 0 < r := by omega
      obtain ⟨chunkOut, hchunk, silent⟩ := burst_silent underWay hr
      obtain ⟨restOut, hrest, one⟩ := ih (by omega) hr (burst_underWay underWay hr) (burst_inbox _)
      refine ⟨chunkOut ++ restOut, ?_, by rw [irqCount_append, silent, one]⟩
      rw [hrest, dmaDelivered_burst underWay hr, hchunk, ← List.append_assoc]
      rfl

/-- Settles O48: the fires deliver the result as one store of all its bytes, which does not wrap over itself. -/
theorem dmaTransferDeliversTheWholeResult : Obligations.DmaTransferDeliversTheWholeResult := by
  intro s n d xs hn hmax hseq htimer hchunk htotal hinbox
  obtain ⟨os, hrun, one⟩ := run_dmaFires rfl hn ⟨hseq, ⟨d, htimer⟩, hchunk, htotal⟩ hinbox
  refine ⟨_, os, hrun, rfl, one, ?inside, ?outside, rfl⟩
  case inside => exact fun k hk => Memory.read_storeResult_inside s.mem s.dmaDest s.dev (by omega) hk
  case outside => exact fun a ha => Memory.read_storeResult_outside s.mem s.dmaDest s.dev ha

end Sys2Proof.Machine
end

section
/-! SUPPORT. What the decoder answers: the specific rows before the "otherwise" rows (R79, R81, R91), and a bus access by
the register or the width that its offset and its halves select (R70 to R74). -/

namespace Sys2Proof.Machine

/-! ### Well-formed answers -/

theorem decodeByteRead_wf (p : Params) (r : BitVec 3) : (decodeByteRead r).wf p = true := by
  unfold decodeByteRead
  split <;> rfl

theorem decodeByteWrite_wf (p : Params) (r : BitVec 3) (v : Byte) : (decodeByteWrite r v).wf p = true := by
  unfold decodeByteWrite
  split <;> rfl

/-- No bus access decodes to an "otherwise" row (R91). -/
theorem decodeSelector_wf (p : Params) (sel : BitVec 5) (v : DWord) : (decodeSelector sel v).wf p = true := by
  unfold decodeSelector
  split
  · rfl
  · rfl
  · rfl
  · exact decodeByteRead_wf p _
  · exact decodeByteWrite_wf p _ _

theorem decodeCommand_wf (p : Params) (c : Byte) : (decodeCommand p c).wf p = true := by
  unfold decodeCommand
  split_ifs with hpacket hidentify hfeatures
  · rfl
  · rfl
  · rfl
  · simp [Instr.wf, isRecognisedCommand, hpacket, hidentify, hfeatures]

theorem decodeCdb_wf (p : Params) (c : Cdb) : (decodeCdb c).wf p = true := by
  unfold decodeCdb
  split_ifs with hready hplay hselect hspeed
  · rfl
  · rfl
  · rfl
  · rfl
  · simp [Instr.wf, isSpecialOpcode, hready, hplay, hselect, hspeed]

theorem decodeEvent_wf (p : Params) (n : BitVec 2) (v : DWord) : (decodeEvent n v).wf p = true := by
  unfold decodeEvent
  split <;> rfl

/-- Settles O2, by the form of the input event: only a command byte or an operation code that no specific row names
reaches an "otherwise" row. -/
theorem decodedInstructionsAreWellFormed : Obligations.DecodedInstructionsAreWellFormed := by
  intro p x i h
  cases x with
  | bus rw o m v =>
    by_cases inside : o < 4
    · rw [decode_bus_inside p rw m v inside] at h
      exact Except.ok.inj h ▸ decodeSelector_wf p _ v
    · rw [decode_bus_outside p rw m v (by omega)] at h
      cases h
  | cmd c => exact Except.ok.inj h ▸ decodeCommand_wf p c
  | cdb c => exact Except.ok.inj h ▸ decodeCdb_wf p c
  | event n v => exact Except.ok.inj h ▸ decodeEvent_wf p n v

/-! ### Bus accesses by their halves -/

section
variable {p : Params} {m : DWord}

/-- A read with one half taking part reads the register of that half (R72). -/
theorem decode_byteRead (r : TaskReg) (h : laneDecode p.laneDecode m = (!r.inHighHalf, r.inHighHalf)) (v : DWord) :
    decode p (.bus .read r.offset.toNat m v) = .ok r.readInstr := by
  rw [decode_bus_inside p .read m v r.offset.isLt, h, BitVec.ofNat_toNat, BitVec.setWidth_eq]
  exact congrArg Except.ok (decodeSelector_read r v)

/-- A write with one half taking part writes the byte of its lane to the register of that half (R72, R73). -/
theorem decode_byteWrite (r : TaskReg) (h : laneDecode p.laneDecode m = (!r.inHighHalf, r.inHighHalf)) (v : DWord) :
    decode p (.bus .write r.offset.toNat m v) = .ok (r.writeInstr (laneByte r.inHighHalf v)) := by
  rw [decode_bus_inside p .write m v r.offset.isLt, h, BitVec.ofNat_toNat, BitVec.setWidth_eq]
  exact congrArg Except.ok (decodeSelector_write r v)

/-- A read with both halves taking part is a wide read (R71). -/
theorem decode_wideRead (h : laneDecode p.laneDecode m = (true, true)) (oo : BitVec 2) (v : DWord) :
    decode p (.bus .read oo.toNat m v) = .ok (.rdWide oo) := by
  rw [decode_bus_inside p .read m v oo.isLt, h, BitVec.ofNat_toNat, BitVec.setWidth_eq, decodeSelector_rdWide]

/-- A write with both halves taking part is a wide write of the low word (R71, R74). -/
theorem decode_wideWrite (h : laneDecode p.laneDecode m = (true, true)) (oo : BitVec 2) (v : DWord) :
    decode p (.bus .write oo.toNat m v) = .ok (.wrWide oo (wideWord v)) := by
  rw [decode_bus_inside p .write m v oo.isLt, h, BitVec.ofNat_toNat, BitVec.setWidth_eq, decodeSelector_wrWide]

/-- An access with no half taking part is empty (R71). -/
theorem decode_emptyAccess (h : laneDecode p.laneDecode m = (false, false)) (rw : Dir) (oo : BitVec 2) (v : DWord) :
    decode p (.bus rw oo.toNat m v) = .ok (.nopAccess rw oo) := by
  rw [decode_bus_inside p rw m v oo.isLt, h, BitVec.ofNat_toNat, BitVec.setWidth_eq, decodeSelector_nopAccess]

end

/-- Settles O3: each access decodes by the halves that its mask selects at the default of LANE_DECODE. -/
theorem busFormsOfTheVectorsDecode : Obligations.BusFormsOfTheVectorsDecode := by
  have high : laneDecode Params.default.laneDecode 0xFFFF0000 = (false, true) := by decide
  have low : laneDecode Params.default.laneDecode 0x0000FFFF = (true, false) := by decide
  have both : laneDecode Params.default.laneDecode 0xFFFFFFFF = (true, true) := by decide
  have neither : laneDecode Params.default.laneDecode 0 = (false, false) := by decide
  exact ⟨decode_byteWrite .st high _, decode_wideWrite both 0 _, decode_wideWrite both 2 _, decode_byteWrite .sc high _,
    decode_byteWrite .bcl low _, decode_byteRead .st high _, decode_byteRead .bcl low _, decode_wideRead both 0 _,
    decode_emptyAccess neither .write 3 _⟩

end Sys2Proof.Machine
end

section
/-! SUPPORT. The plain byte path by register: what a byte read shows and what a byte write stores (R72, R73, R100 to
R102). -/

namespace Sys2Proof.Machine

/-- A byte read shows the register in its lane and changes nothing else (R100). -/
theorem exec_readInstr (r : TaskReg) (s : State) :
    exec r.readInstr s = .next { s with out := s.out ++ [.busRead (byteLane r.inHighHalf (s.reg r))] } := by
  cases r <;> rfl

/-- Settles O10, register by register. -/
theorem byteReadsShowOneRegister : Obligations.ByteReadsShowOneRegister := fun s =>
  ⟨exec_readInstr .dl s, exec_readInstr .err s, exec_readInstr .ir s, exec_readInstr .sc s, exec_readInstr .bcl s,
    exec_readInstr .bch s, exec_readInstr .ds s, exec_readInstr .st s⟩

/-- A byte write to a register other than 7 stores the byte (R101, R102). -/
theorem exec_writeInstr {r : TaskReg} (hr : r ≠ .st) (v : Byte) (s : State) :
    exec (r.writeInstr v) s = .next (s.setReg r v) := by
  cases r with
  | st => exact absurd rfl hr
  | dl | err | ir | sc | bcl | bch | ds => rfl

/-- The number of a register (R20). -/
def TaskReg.number : TaskReg → Nat
  | .dl => 0
  | .err => 1
  | .ir => 2
  | .sc => 3
  | .bcl => 4
  | .bch => 5
  | .ds => 6
  | .st => 7

/-- Every offset and half name a register, by its number (R72). -/
theorem exists_register {o : Nat} (ho : o < 4) (hi : Bool) :
    ∃ r : TaskReg, r.offset.toNat = o ∧ r.inHighHalf = hi ∧ r.number = 2 * o + hi.toNat :=
  match o, hi, ho with
  | 0, false, _ => ⟨.dl, rfl, rfl, rfl⟩
  | 0, true, _ => ⟨.err, rfl, rfl, rfl⟩
  | 1, false, _ => ⟨.ir, rfl, rfl, rfl⟩
  | 1, true, _ => ⟨.sc, rfl, rfl, rfl⟩
  | 2, false, _ => ⟨.bcl, rfl, rfl, rfl⟩
  | 2, true, _ => ⟨.bch, rfl, rfl, rfl⟩
  | 3, false, _ => ⟨.ds, rfl, rfl, rfl⟩
  | 3, true, _ => ⟨.st, rfl, rfl, rfl⟩

/-- A write of a register changes the entry of its number and no other (R10, R20). -/
theorem registers_setReg (s : State) (r : TaskReg) (v : Byte) :
    [(s.setReg r v).dl, (s.setReg r v).err, (s.setReg r v).ir, (s.setReg r v).sc, (s.setReg r v).bcl, (s.setReg r v).bch,
      (s.setReg r v).ds, (s.setReg r v).st] =
      [s.dl, s.err, s.ir, s.sc, s.bcl, s.bch, s.ds, s.st].set r.number v := by
  cases r <;> rfl

/-- A write of a register changes nothing outside the registers. -/
theorem setReg_outside_registers (s : State) (r : TaskReg) (v : Byte) :
    { s.setReg r v with
      dl := s.dl, err := s.err, ir := s.ir, sc := s.sc, bcl := s.bcl, bch := s.bch, ds := s.ds, st := s.st } = s := by
  cases r <;> rfl

/-- Settles O13: the offset and the half name a register, and the step is the byte write of it. -/
theorem busByteWriteStoresItsLane : Obligations.BusByteWriteStoresItsLane := by
  intro s o m v hi xs ho hm hnumber hinbox
  obtain ⟨r, rfl, rfl, number⟩ := exists_register ho hi
  have hr : r ≠ .st := by
    rintro rfl
    exact hnumber number.symm
  rw [← number]
  exact ⟨({ s with inbox := xs } : State).setReg r (laneByte r.inHighHalf v),
    (stepRunsTheDecodedInstruction s _ xs _ hinbox (decode_byteWrite r hm v)).trans (exec_writeInstr hr _ _),
    registers_setReg { s with inbox := xs } r _, setReg_outside_registers { s with inbox := xs } r _⟩

end Sys2Proof.Machine
end

section
/-! SUPPORT. A dispatch that the device accepts, as `dispatched` says it, and the side effect of MODE SELECT (R122 to R124,
R129); the words of a packet over the bus and at once (R80, R120, R121). -/

namespace Sys2Proof.Machine

/-! ### An accepted dispatch -/

/-- Seeding and announcing a transfer of `n` bytes (R123, R124). -/
theorem announceTransfer_seedTransfer (n : Nat) (s : State) :
    announceTransfer (seedTransfer n s) =
      { s with
        chunkRemaining := min n 63488
        totalRemaining := n - min n 63488
        bcl := BitVec.ofNat 8 (min n 63488)
        bch := BitVec.ofNat 8 (min n 63488 / 256)
        st := if n = 0 then s.params.stDriveReady else s.params.stDrq ||| s.params.stServiceDsc
        ir := if n = 0 then s.params.irIo ||| s.params.irCommand else s.params.irIo
        seq := if n = 0 then .complete else .dataWait
        out := s.out ++ [.irq Config.irqVector] } := by
  rw [announceTransfer_eq]
  simp only [seedTransfer_chunkRemaining, min_maxTransferSize_eq_zero]
  rfl

/-- A packet that the device accepts: the block as dispatch leaves it, then the side effect (R122 to R125). -/
theorem dispatch_of_count {s : State} {c : Cdb} {n : Nat} (hc : cdbOfPacket s.pkt = c)
    (h : (s.dev.exec c).1 = .count n) : dispatch s = opcodeSideEffect c (dispatched n c s) := by
  subst hc
  simp only [dispatch, h, dispatchSuccess, announceTransfer_seedTransfer, emit, List.append_assoc]
  rfl

/-- MODE SELECT waits for its parameter words when its length field has two bytes or more (R129). -/
theorem opcodeSideEffect_modeSelect {c : Cdb} (hop : c.op = 0x55) (s : State) :
    opcodeSideEffect c s =
      if 2 ≤ modeSelectLen s.params.modeSelectLen c then
        { s with modeExpect := modeSelectLen s.params.modeSelectLen c / 2, modeBuf := [], seq := .modeParamWait }
      else s := by
  have oneWord : 1 ≤ modeSelectLen s.params.modeSelectLen c / 2 ↔ 2 ≤ modeSelectLen s.params.modeSelectLen c := by omega
  have selected : opcodeSideEffect c s = modeSelectEffect c s := by
    rw [opcodeSideEffect, hop]
    rfl
  simp only [selected, modeSelectEffect, modeSelectWords, oneWord]

/-- The sixth packet word dispatches (R121). -/
theorem wideWrite_sixth {s : State} (hseq : s.seq = .packetBuild) (hcount : s.pktCount = 5) (w : Word) :
    wideWrite w s = dispatch { s with pkt := s.pkt.setIfInBounds 5 w, pktCount := 6 } := by
  simp only [wideWrite, hseq, packetWord, hcount, packetWords, if_true]

/-- Settles O23: the sixth word dispatches the six words, and the operation code selects the side effect. -/
theorem sixthWordOfAModeSelect : Obligations.SixthWordOfAModeSelect := by
  intro s oo w0 w1 w2 w3 w4 w5 x c n t hseq hcount hpkt hc hanswer ht hop
  have sixWords : s.pkt.setIfInBounds 5 w5 = #v[w0, w1, w2, w3, w4, w5] := by rw [hpkt]; rfl
  have assembled : cdbOfPacket ({ s with pkt := #v[w0, w1, w2, w3, w4, w5], pktCount := 6 } : State).pkt = c := hc.symm
  change Host.Outcome.next (wideWrite w5 s) = _
  rw [wideWrite_sixth hseq hcount, sixWords, dispatch_of_count assembled hanswer, opcodeSideEffect_modeSelect hop, ht]
  rfl

/-! ### A whole packet -/

theorem highByte_append_lowByte (w : Word) : highByte w ++ lowByte w = w :=
  BitVec.extractLsb'_append_extractLsb' (w := 8) (len := 8)

/-- The twelve bytes of a packet determine its six words (R60, R80). -/
theorem eq_of_cdbOfPacket {p : Vector Word 6} {c : Cdb} (h : cdbOfPacket p = c) :
    p = #v[c.tail.b1 ++ c.op, c.tail.b3 ++ c.tail.b2, c.tail.b5 ++ c.tail.b4, c.tail.b7 ++ c.tail.b6,
      c.tail.b9 ++ c.tail.b8, c.tail.b11 ++ c.tail.b10] := by
  subst h
  simp only [cdbOfPacket, highByte_append_lowByte]
  ext i hi
  interval_cases i <;> rfl

/-- A whole packet is a dispatch of its six words (R80, R111, R121, R122). -/
theorem sendPacket_eq_dispatch (c : Cdb) (s : State) :
    sendPacket c s = dispatch { packetSent c s with pktCount := 6 } := by
  obtain ⟨p, hp, e⟩ := sendPacket_eq c s
  rw [e, eq_of_cdbOfPacket hp]
  rfl

theorem cdbOfPacket_packetSent (c : Cdb) (s : State) : cdbOfPacket (packetSent c s).pkt = c := cdbOfPacket_words c

/-- A whole packet that the device accepts (R122 to R125). -/
theorem sendPacket_of_count {s : State} {c : Cdb} {n : Nat} (h : (s.dev.exec c).1 = .count n) :
    sendPacket c s = opcodeSideEffect c (dispatched n c (packetSent c s)) := by
  have hc : cdbOfPacket ({ packetSent c s with pktCount := 6 } : State).pkt = c := cdbOfPacket_packetSent c s
  rw [sendPacket_eq_dispatch, dispatch_of_count hc h]
  rfl

/-- Settles O27: the packet is dispatched, and the side effect waits for the words, if there are any. -/
theorem modeSelectExpectsItsParameterWords : Obligations.ModeSelectExpectsItsParameterWords := by
  intro s t n hanswer
  have sent : exec (.cdbModeSelect t) s =
      .next (opcodeSideEffect ⟨0x55, t⟩ (dispatched n ⟨0x55, t⟩ (packetSent ⟨0x55, t⟩ s))) :=
    congrArg Host.Outcome.next (sendPacket_of_count hanswer)
  rw [sent, opcodeSideEffect_modeSelect rfl]
  constructor
  · intro enough
    exact congrArg Host.Outcome.next (if_pos enough)
  · intro tooFew
    exact congrArg Host.Outcome.next (if_neg (Nat.not_le.mpr tooFew))

end Sys2Proof.Machine
end

section
/-! SUPPORT. Words written over the bus one after another: while further words are awaited a wide write only stores its
own, so a run over the writes is the writes in turn (R80, R120, R121, R132, R133). -/

namespace Sys2Proof.Machine

/-! ### The words awaited -/

/-- `k` more words complete the packet or the parameter list that the block is collecting (R32, R33). -/
def AwaitsWords (k : Nat) (s : State) : Prop :=
  (s.seq = .packetBuild ∧ s.pktCount + k = 6) ∨ (s.seq = .modeParamWait ∧ s.modeBuf.length + k = s.modeExpect)

/-- A packet word before the sixth (R121). -/
theorem wideWrite_packetWord_more {s : State} (hseq : s.seq = .packetBuild) (hcount : s.pktCount + 1 ≠ 6) (w : Word) :
    wideWrite w s = { s with pkt := s.pkt.setIfInBounds s.pktCount w, pktCount := s.pktCount + 1 } := by
  simp only [wideWrite, hseq, packetWord, packetWords, hcount, if_false]

/-- A parameter word before the last (R132). -/
theorem wideWrite_modeParamWord_more {s : State} (hseq : s.seq = .modeParamWait)
    (hlen : s.modeBuf.length + 1 ≠ s.modeExpect) (w : Word) :
    wideWrite w s = { s with modeBuf := s.modeBuf ++ [w] } := by
  rw [wideWrite_modeParamWait hseq, modeParamWord_more hlen]

/-- A word that is not the last leaves one word less to come (R121, R132). -/
theorem AwaitsWords.next {k : Nat} {s : State} (h : AwaitsWords (k + 2) s) (w : Word) :
    AwaitsWords (k + 1) (wideWrite w s) := by
  obtain ⟨hseq, hcount⟩ | ⟨hseq, hlen⟩ := h
  · rw [wideWrite_packetWord_more hseq (by omega)]
    exact .inl ⟨hseq, by simp only; omega⟩
  · rw [wideWrite_modeParamWord_more hseq (by omega)]
    exact .inr ⟨hseq, by simp only [List.length_append, List.length_singleton]; omega⟩

/-- A word that is not the last does the same whatever events wait (R121, R132). -/
theorem AwaitsWords.wideWrite_inbox {k : Nat} {s : State} (h : AwaitsWords (k + 2) s) (w : Word) (xs : List Input) :
    wideWrite w { s with inbox := xs } = { wideWrite w s with inbox := xs } := by
  obtain ⟨hseq, hcount⟩ | ⟨hseq, hlen⟩ := h
  · have more : s.pktCount + 1 ≠ 6 := by omega
    rw [wideWrite_packetWord_more hseq more, wideWrite_packetWord_more (s := { s with inbox := xs }) hseq more]
  · have more : s.modeBuf.length + 1 ≠ s.modeExpect := by omega
    rw [wideWrite_modeParamWord_more hseq more, wideWrite_modeParamWord_more (s := { s with inbox := xs }) hseq more]

/-! ### The writes on the bus -/

/-- Wide writes in turn (R120). -/
def wideWrites (ws : List Word) (s : State) : State := ws.foldl (fun t w => wideWrite w t) s

theorem wideWrites_cons (w : Word) (ws : List Word) (s : State) :
    wideWrites (w :: ws) s = wideWrites ws (wideWrite w s) := rfl

/-- A run over as many bus writes as words are awaited is the wide writes in turn (R71, R120). -/
theorem run_wideWrites {m v : DWord} {vs : List DWord} {s : State} {xs : List Input}
    (hm : laneDecode s.params.laneDecode m = (true, true)) (h : AwaitsWords (vs.length + 1) s)
    (hinbox : s.inbox = (v :: vs).map (.bus .write 0 m) ++ xs) :
    core.run (vs.length + 1) s = .next (wideWrites ((v :: vs).map wideWord) { s with inbox := xs }) := by
  induction vs generalizing v s with
  | nil => exact run_succ_of_exec hinbox (decode_wideWrite hm 0 v) rfl 0
  | cons u vs ih =>
    have hwrite := h.wideWrite_inbox (wideWord v)
    have hparams : (wideWrite (wideWord v) s).params = s.params := (keepsHostOwned_wideWrite _ _).params
    calc core.run (vs.length + 1 + 1) s
      _ = core.run (vs.length + 1)
            { wideWrite (wideWord v) s with inbox := (u :: vs).map (.bus .write 0 m) ++ xs } :=
        run_succ_of_exec hinbox (decode_wideWrite hm 0 v) (congrArg Host.Outcome.next (hwrite _)) _
      _ = .next (wideWrites ((u :: vs).map wideWord) { wideWrite (wideWord v) s with inbox := xs }) :=
        ih (hparams ▸ hm) (h.next _) rfl
      _ = .next (wideWrites ((v :: u :: vs).map wideWord) { s with inbox := xs }) := by
        rw [List.map_cons (l := u :: vs), wideWrites_cons, hwrite xs]

/-! ### A packet -/

/-- Whatever its operation code, a packet decodes to a row that sends it (R80, R81). -/
theorem exec_decodeCdb (c : Cdb) (s : State) : exec (decodeCdb c) s = .next (sendPacket c s) := by
  have encoded : encode s.params (decodeCdb c) = .cdb c := by
    unfold decodeCdb
    split_ifs with hready hplay hselect hspeed
    · rw [encode, ← hready]
    · rw [encode, ← hplay]
    · rw [encode, ← hselect]
    · rw [encode, ← hspeed]
    · rfl
  exact exec_packetRow encoded s

/-- A Data word of two bytes is the low half of its bus word (R74). -/
theorem wideWord_bytes (hi lo : Byte) : wideWord (0#16 ++ hi ++ lo) = hi ++ lo := by
  rw [BitVec.append_assoc]
  exact BitVec.extractLsb'_append_eq_right

/-- The six writes of a packet on the bus are its six words in turn (R80, R120). -/
theorem run_packetWords {m : DWord} {s : State} {c : Cdb} {xs : List Input}
    (hm : laneDecode s.params.laneDecode m = (true, true)) (hseq : s.seq = .packetBuild) (hcount : s.pktCount = 0)
    (hinbox : s.inbox =
      [0#16 ++ c.tail.b1 ++ c.op, 0#16 ++ c.tail.b3 ++ c.tail.b2, 0#16 ++ c.tail.b5 ++ c.tail.b4,
        0#16 ++ c.tail.b7 ++ c.tail.b6, 0#16 ++ c.tail.b9 ++ c.tail.b8, 0#16 ++ c.tail.b11 ++ c.tail.b10].map
          (.bus .write 0 m) ++ xs) :
    core.run 6 s = .next (wideWrites (packetOfCdb c) { s with inbox := xs }) := by
  refine (run_wideWrites hm (.inl ⟨hseq, by rw [hcount]; rfl⟩) hinbox).trans ?_
  simp only [List.map_cons, List.map_nil, wideWord_bytes]
  rfl

/-- Settles O29: the command begins a packet, and the six writes are its words in turn. -/
theorem packetInstructionEqualsSevenBusWrites : Obligations.PacketInstructionEqualsSevenBusWrites := by
  intro s c mh mw v xs hmh hmw hcommand
  have command (ys : List Input) : exec (.wrCmd (laneByte true v)) { s with inbox := ys } =
      .next (packetCommand { s with inbox := ys }) := congrArg Host.Outcome.next (onCommandWrite_packet hcommand)
  rw [exec_decodeCdb]
  refine Eq.trans
    (run_succ_of_exec (s := { s with inbox := _ :: _ }) rfl (decode_byteWrite .st hmh v) (command _) 6) ?_
  exact run_packetWords (s := packetCommand { s with inbox := _ }) hmw rfl rfl rfl

/-! ### A parameter list -/

/-- The words of a parameter list in turn: all of them are collected, and the last one completes the list (R132,
R133). -/
theorem wideWrites_modeParamWords {w : Word} {ws : List Word} {s : State} (hseq : s.seq = .modeParamWait)
    (hlen : s.modeBuf.length + (ws.length + 1) = s.modeExpect) :
    wideWrites (w :: ws) s = modeParamComplete { s with modeBuf := s.modeBuf ++ w :: ws } := by
  induction ws generalizing w s with
  | nil =>
    rw [wideWrites_cons, wideWrite_modeParamWait hseq, modeParamWord_last (by simpa using hlen)]
    rfl
  | cons u ws ih =>
    rw [List.length_cons] at hlen
    rw [wideWrites_cons, wideWrite_modeParamWord_more hseq (by omega),
      ih (s := { s with modeBuf := s.modeBuf ++ [w] }) hseq
        (by simp only [List.length_append, List.length_singleton]; omega)]
    simp only [List.append_assoc, List.singleton_append]

/-- Settles O31: the writes are the words of the list in turn, and the last one hands the whole list over. -/
theorem wholeParameterListReachesTheDevice : Obligations.WholeParameterListReachesTheDevice := by
  intro s m ws xs hm hseq hbuf hlen hexpect hinbox
  cases ws with
  | nil => exact absurd hlen (by simp only [List.length_nil]; omega)
  | cons w ws =>
    have awaited : AwaitsWords ((ws.map wideLane).length + 1) s :=
      .inr ⟨hseq, by rw [hbuf, List.length_map, ← hlen, List.length_nil, List.length_cons, Nat.zero_add]⟩
    have onBus : s.inbox = (wideLane w :: ws.map wideLane).map (.bus .write 0 m) ++ xs := by
      rw [List.map_cons, List.map_map]
      exact hinbox
    have words : (wideLane w :: ws.map wideLane).map wideWord = w :: ws := by simp [Function.comp_def]
    have collected : ({ s with inbox := xs } : State).modeBuf.length + (ws.length + 1) = s.modeExpect := by
      rw [← hlen, hbuf, List.length_nil, Nat.zero_add, List.length_cons]
    calc core.run s.modeExpect s
      _ = core.run ((ws.map wideLane).length + 1) s := by rw [List.length_map, ← hlen, List.length_cons]
      _ = .next (wideWrites (w :: ws) { s with inbox := xs }) := words ▸ run_wideWrites hm awaited onBus
      _ = _ := by
        rw [wideWrites_modeParamWords (s := { s with inbox := xs }) hseq collected, modeParamComplete_eq,
          bytesOfWords_eq_flatMap, hbuf]
        rfl

end Sys2Proof.Machine
end

section
/-! SUPPORT. Wide reads over the bus one after another: the staged words in order, then an emptied buffer or the end of the
command (R140, R145, R146); the identify block, and a whole transfer chunk by chunk (R149, R150). -/

namespace Sys2Proof.Machine

/-! ### Words returned -/

/-- The bus words of wide reads that return `ws` (R74). -/
def busReads (ws : List Word) : List Output := ws.map fun w => .busRead (wideLane w)

@[simp] theorem busWords_busReads (ws : List Word) : busWords (busReads ws) = ws.map wideLane := by
  induction ws with
  | nil => rfl
  | cons w ws ih => exact congrArg (wideLane w :: ·) ih

@[simp] theorem effects_busReads (ws : List Word) : effects (busReads ws) = [] := by
  simp [effects, busReads, Output.isBusRead]

/-- The returned words raise no interrupt and are no other effect, so leaving them out keeps the count (R42). -/
theorem irqCount_effects (os : List Output) : irqCount (effects os) = irqCount os := by
  rw [irqCount, effects, List.countP_filter]
  exact List.countP_congr fun o _ => by cases o <;> simp [Output.isIrq, Output.isBusRead]

/-! ### One read -/

/-- In DATA_PIO a wide read over the bus is `PioRead()` (R140). -/
theorem run_wideRead {m : DWord} {s : State} {xs : List Input} (hm : laneDecode s.params.laneDecode m = (true, true))
    (hseq : s.seq = .dataPio) (hinbox : s.inbox = .bus .read 0 m 0 :: xs) (k : Nat) :
    core.run (k + 1) s = core.run k (pioRead { s with inbox := xs }) := by
  have read : wideRead { s with inbox := xs } = .next (pioRead { s with inbox := xs }) := by rw [wideRead, hseq]
  exact run_succ_of_exec hinbox (decode_wideRead hm 0 0) read k

/-- A wide read in DATA_WAIT is the same read in DATA_PIO (R140). -/
theorem run_from_dataWait {m : DWord} {s : State} {xs : List Input} (hm : laneDecode s.params.laneDecode m = (true, true))
    (hseq : s.seq = .dataWait) (hinbox : s.inbox = .bus .read 0 m 0 :: xs) (k : Nat) :
    core.run (k + 1) s = core.run (k + 1) { s with seq := .dataPio } := by
  have read : wideRead { s with inbox := xs } = .next (pioRead { s with inbox := xs, seq := .dataPio }) := by
    rw [wideRead, hseq]
  exact (run_succ_of_exec hinbox (decode_wideRead hm 0 0) read k).trans
    (run_wideRead (s := { s with seq := .dataPio }) hm rfl hinbox k).symm

/-- With a word staged `PioRead()` pops it (R148). -/
theorem pioRead_of_staged {s : State} (h : s.readPointer < s.writtenLength) : pioRead s = popOrZero s := by
  rw [pioRead, stageIfEmpty, if_neg fun empty => Nat.ne_of_lt h empty.left]

/-- The pop of the last staged word when a further chunk is announced (R145). -/
theorem popOrZero_last_of_chunk {s : State} (hlast : s.readPointer + 1 = s.writtenLength) (hchunk : s.chunkRemaining ≠ 0) :
    popOrZero s =
      { s with
        rb := [], readPointer := 0
        out := s.out ++ [.busRead (wideLane (s.rb.getD s.readPointer 0))] } := by
  rw [popOrZero, if_pos (Nat.lt_of_succ_le hlast.le), popWord, if_pos hlast]
  simp only [hchunk, if_false]
  rfl

/-- The pop of the last word of all (R145, R146). -/
theorem popOrZero_last_of_all {s : State} (hlast : s.readPointer + 1 = s.writtenLength) (hchunk : s.chunkRemaining = 0) :
    popOrZero s =
      { s with
        rb := [], readPointer := 0, st := clearDrq s.params s.st, ir := s.params.irIo, seq := .complete
        out := s.out ++ [.irq Config.irqVector, .busRead (wideLane (s.rb.getD s.readPointer 0))] } := by
  rw [popOrZero, if_pos (Nat.lt_of_succ_le hlast.le), popWord, if_pos hlast]
  simp [hchunk, finalCompletion, raiseIrq, returnBus, emit]

/-! ### The words of the buffer -/

/-- The block after `j` staged words have been returned and others are left (R145). -/
def popped (j : Nat) (s : State) : State :=
  { s with
    readPointer := s.readPointer + j
    out := s.out ++ busReads ((s.rb.drop s.readPointer).take j) }

theorem drop_eq_getD_cons {ws : List Word} {k : Nat} (h : k < ws.length) : ws.drop k = ws.getD k 0 :: ws.drop (k + 1) := by
  rw [List.drop_eq_getElem_cons h, List.getD_eq_getElem _ _ h]

theorem pioRead_eq_popped {s : State} (h : s.readPointer + 1 < s.writtenLength) : pioRead s = popped 1 s := by
  rw [pioRead_of_staged (Nat.lt_of_succ_lt h), popOrZero_of_more h, popped, drop_eq_getD_cons (Nat.lt_of_succ_lt h)]
  rfl

theorem popped_popped {s : State} (h : s.readPointer < s.writtenLength) (j : Nat) :
    popped j (popped 1 s) = popped (j + 1) s := by
  simp only [popped, drop_eq_getD_cons h, List.take_succ_cons, List.take_zero, busReads, List.map_cons, List.map_nil,
    List.append_assoc, List.singleton_append, Nat.add_assoc, Nat.add_comm 1 j]

/-- Reads that leave a word staged return the words in order (R145). -/
theorem run_pops {m : DWord} {j : Nat} {s : State} {xs : List Input}
    (hm : laneDecode s.params.laneDecode m = (true, true)) (hseq : s.seq = .dataPio)
    (hmore : s.readPointer + j < s.writtenLength) (hinbox : s.inbox = List.replicate j (.bus .read 0 m 0) ++ xs) (k : Nat) :
    core.run (j + k) s = core.run k { popped j s with inbox := xs } := by
  induction j generalizing s with
  | zero =>
    have unchanged : ({ popped 0 s with inbox := xs } : State) = s := by
      simp only [popped, List.take_zero, busReads, List.map_nil, List.append_nil, Nat.add_zero]
      rw [← show s.inbox = xs from hinbox]
    rw [unchanged, Nat.zero_add]
  | succ j ih =>
    have staged : s.readPointer < s.writtenLength := by omega
    have later : (popped 1 s).readPointer + j < (popped 1 s).writtenLength := by
      change s.readPointer + 1 + j < s.writtenLength
      omega
    calc core.run (j + 1 + k) s
      _ = core.run (j + k + 1) s := by rw [Nat.add_right_comm]
      _ = core.run (j + k) (pioRead { s with inbox := List.replicate j (.bus .read 0 m 0) ++ xs }) :=
        run_wideRead hm hseq hinbox _
      _ = core.run (j + k) { popped 1 s with inbox := List.replicate j (.bus .read 0 m 0) ++ xs } :=
        congrArg (core.run (j + k)) (pioRead_eq_popped (by change s.readPointer + 1 < s.writtenLength; omega))
      _ = core.run k { popped j (popped 1 s) with inbox := xs } := ih hm hseq later rfl
      _ = core.run k { popped (j + 1) s with inbox := xs } := by rw [popped_popped staged]

/-- Reads of a whole buffer: all its words but the last, then the pop of the last (R145). -/
theorem run_buffer {m : DWord} {j : Nat} {s : State} {xs : List Input}
    (hm : laneDecode s.params.laneDecode m = (true, true)) (hseq : s.seq = .dataPio) (hpointer : s.readPointer = 0)
    (hlen : s.rb.length = j + 1) (hinbox : s.inbox = List.replicate s.rb.length (.bus .read 0 m 0) ++ xs) (k : Nat) :
    core.run (s.rb.length + k) s = core.run k (popOrZero { popped j s with inbox := xs }) := by
  have more : s.readPointer + j < s.writtenLength := by rw [hpointer, State.writtenLength, hlen]; omega
  have inbox : s.inbox = List.replicate j (.bus .read 0 m 0) ++ (.bus .read 0 m 0 :: xs) := by
    rw [hinbox, hlen, List.replicate_succ', List.append_assoc]
    rfl
  calc core.run (s.rb.length + k) s
    _ = core.run (j + (k + 1)) s := by rw [hlen, Nat.add_right_comm, Nat.add_assoc]
    _ = core.run (k + 1) { popped j s with inbox := .bus .read 0 m 0 :: xs } := run_pops hm hseq more inbox _
    _ = core.run k (pioRead { popped j s with inbox := xs }) := run_wideRead (s := { popped j s with inbox := _ }) hm hseq rfl k
    _ = core.run k (popOrZero { popped j s with inbox := xs }) :=
      congrArg (core.run k) (pioRead_of_staged more)

/-- The words of a buffer are those before the last and the last. -/
theorem take_append_getD {ws : List Word} {j : Nat} (h : ws.length = j + 1) : ws.take j ++ [ws.getD j 0] = ws := by
  have hj : j < ws.length := by omega
  rw [List.getD_eq_getElem _ _ hj, List.take_append_getElem hj, List.take_of_length_le h.le]

/-- After all words of a buffer but one the next word is the last. -/
theorem popped_last {j : Nat} {s : State} (hpointer : s.readPointer = 0) (hlen : s.rb.length = j + 1) :
    (popped j s).readPointer + 1 = (popped j s).writtenLength := by
  change s.readPointer + j + 1 = s.rb.length
  omega

/-- A whole buffer read while a further chunk is announced: its words in order, and nothing else (R145). -/
theorem run_buffer_of_chunk {m : DWord} {s : State} {xs : List Input}
    (hm : laneDecode s.params.laneDecode m = (true, true)) (hseq : s.seq = .dataPio) (hpointer : s.readPointer = 0)
    (hstaged : 0 < s.rb.length) (hchunk : s.chunkRemaining ≠ 0)
    (hinbox : s.inbox = List.replicate s.rb.length (.bus .read 0 m 0) ++ xs) (k : Nat) :
    core.run (s.rb.length + k) s =
      core.run k { s with rb := [], readPointer := 0, inbox := xs, out := s.out ++ busReads s.rb } := by
  obtain ⟨j, hlen⟩ := Nat.exists_eq_add_one.mpr hstaged
  have words : busReads (s.rb.take j) ++ [.busRead (wideLane (s.rb.getD j 0))] = busReads s.rb := by
    conv_rhs => rw [← take_append_getD hlen, busReads, List.map_append]
    rfl
  refine (run_buffer hm hseq hpointer hlen hinbox k).trans (congrArg (core.run k) ?_)
  rw [popOrZero_last_of_chunk (s := { popped j s with inbox := xs }) (popped_last hpointer hlen) hchunk, ← words]
  simp only [popped, hpointer, List.drop_zero, Nat.zero_add, List.append_assoc]
  rfl

/-- A whole buffer read with no chunk announced: its words in order and the end of the command (R145, R146). -/
theorem run_buffer_of_all {m : DWord} {s : State} {xs : List Input}
    (hm : laneDecode s.params.laneDecode m = (true, true)) (hseq : s.seq = .dataPio) (hpointer : s.readPointer = 0)
    (hstaged : 0 < s.rb.length) (hchunk : s.chunkRemaining = 0)
    (hinbox : s.inbox = List.replicate s.rb.length (.bus .read 0 m 0) ++ xs) :
    ∃ os,
      core.run s.rb.length s = .next
        { s with
          rb := [], readPointer := 0, st := clearDrq s.params s.st, ir := s.params.irIo, seq := .complete, inbox := xs
          out := s.out ++ os } ∧
      effects os = [.irq Config.irqVector] ∧ busWords os = s.rb.map wideLane := by
  obtain ⟨j, hlen⟩ := Nat.exists_eq_add_one.mpr hstaged
  refine ⟨busReads (s.rb.take j) ++ [.irq Config.irqVector, .busRead (wideLane (s.rb.getD j 0))], ?run, ?effects, ?words⟩
  case run =>
    refine (run_buffer hm hseq hpointer hlen hinbox 0).trans (congrArg Host.Outcome.next ?_)
    rw [popOrZero_last_of_all (s := { popped j s with inbox := xs }) (popped_last hpointer hlen) hchunk]
    simp only [popped, hpointer, List.drop_zero, Nat.zero_add, List.append_assoc]
    rfl
  case effects => rw [effects_append, effects_busReads]; rfl
  case words =>
    conv_rhs => rw [← take_append_getD hlen, List.map_append]
    rw [busWords_append, busWords_busReads]
    rfl

end Sys2Proof.Machine
end

section
/-! SUPPORT. The identify block read word by word (R150), and a whole transfer drained by wide reads: each chunk is staged by
its first read, and the words of the chunks in turn are those of the result (R149). -/

namespace Sys2Proof.Machine

/-! ### The identify block -/

/-- The bus words of the first `n` words of the identify block (R85). -/
theorem identifyBlock_take {n : Nat} (h : n ≤ 256) :
    (identifyBlock.take n).map wideLane = (List.range n).map fun k => (Config.identifyWord k).setWidth 32 := by
  rw [identifyBlock, ← List.map_take, List.take_range, identifyWords, Nat.min_eq_left h, List.map_map]
  rfl

section
variable {m : DWord} {s : State} {xs : List Input}

/-- After the command 255 reads return all the words of the block but the last (R145). -/
theorem run_identify_allButOne (hm : laneDecode s.params.laneDecode m = (true, true))
    (hinbox : s.inbox = List.replicate 255 (.bus .read 0 m 0) ++ xs) :
    core.run 255 (identifyCommand s) = .next { popped 255 (identifyCommand s) with inbox := xs } := by
  have more : 0 + 255 < identifyBlock.length := by rw [identifyBlock_length]; decide
  exact run_pops (s := identifyCommand s) hm rfl more hinbox 0

/-- After the command 256 reads return the block and complete (R146, R150). -/
theorem run_identify (hm : laneDecode s.params.laneDecode m = (true, true))
    (hinbox : s.inbox = List.replicate 256 (.bus .read 0 m 0) ++ xs) :
    ∃ os,
      core.run 256 (identifyCommand s) = .next
        { identifyCommand s with
          rb := [], readPointer := 0, st := clearDrq s.params s.params.stDrq, ir := s.params.irIo, seq := .complete
          inbox := xs, out := (identifyCommand s).out ++ os } ∧
      effects os = [.irq Config.irqVector] ∧ busWords os = identifyBlock.map wideLane := by
  have length : (identifyCommand s).rb.length = 256 := identifyBlock_length
  have run := run_buffer_of_all (s := identifyCommand s) hm rfl rfl (by rw [length]; decide) rfl
    (by rw [length]; exact hinbox)
  rwa [length] at run

end

/-- Settles O41: the command stages the block and raises its interrupt; 255 reads return all words but the last, and the
256th returns that one and completes. -/
theorem identifyBlockIsReadInOrder : Obligations.IdentifyBlockIsReadInOrder := by
  intro s mh mw v xs hp hmh hmw hcommand hinbox
  have command {ys : List Input} (h : s.inbox = .bus .write 3 mh v :: ys) (k : Nat) :
      core.run (k + 1) s = core.run k (identifyCommand { s with inbox := ys }) := by
    refine run_succ_of_exec h (decode_byteWrite .st hmh v) (congrArg Host.Outcome.next ?_) k
    rw [show laneByte TaskReg.st.inHighHalf v = cmdIdentify from hcommand]
    exact onCommandWrite_identify hp
  constructor
  · have inbox : s.inbox = .bus .write 3 mh v :: (List.replicate 255 (.bus .read 0 mw 0) ++ .bus .read 0 mw 0 :: xs) := by
      rw [hinbox, List.replicate_succ', List.cons_append, List.append_assoc]
      rfl
    refine ⟨_, [.irq Config.irqVector] ++ busReads (identifyBlock.take 255),
      (command inbox 255).trans (run_identify_allButOne hmw rfl), ?out, ?effects, ?words⟩
    case out => exact List.append_assoc s.out [.irq Config.irqVector] (busReads (identifyBlock.take 255))
    case effects => rw [effects_append, effects_busReads]; rfl
    case words => rw [busWords_append, busWords_busReads, identifyBlock_take (by decide)]; rfl
  · obtain ⟨os, run, irq, words⟩ :=
      run_identify (s := { s with inbox := List.replicate 256 (.bus .read 0 mw 0) ++ xs }) hmw rfl
    refine ⟨_, [.irq Config.irqVector] ++ os, (command hinbox 256).trans run, List.append_assoc .., ?effects, ?words, rfl⟩
    case effects => rw [effects_append, irq]; rfl
    case words =>
      rw [busWords_append, words, ← identifyBlock_take (Nat.le_refl 256), List.take_of_length_le identifyBlock_length.le]
      rfl

/-! ### A whole transfer -/

/-- `n` bytes are left to deliver by PIO, the first chunk of them announced and nothing staged (R141, R143). -/
structure PioUnderWay (n : Nat) (s : State) : Prop where
  seq : s.seq = .dataPio
  empty : s.rb = []
  pointer : s.readPointer = 0
  chunk : s.chunkRemaining = min n 63488
  total : s.totalRemaining = n - min n 63488

/-- The block after a transfer of `n` bytes by PIO, but for the queue and the trace (R146, R149). -/
def pioDelivered (n : Nat) (s : State) : State :=
  { s with
    rb := [], readPointer := 0, chunkRemaining := 0, totalRemaining := 0, bcl := 0x00, bch := 0x00
    ir := s.params.irIo, seq := .complete
    st := (if n ≤ 63488 then s.st else s.params.stDrq ||| s.params.stServiceDsc) &&& ~~~s.params.stDrq
    dev := s.dev.advance n }

/-- The first read of a chunk reads as if the chunk had been staged before (R141, R148). -/
theorem run_from_staged {n : Nat} {m : DWord} {s : State} {xs : List Input}
    (hm : laneDecode s.params.laneDecode m = (true, true)) (h : PioUnderWay n s) (hn : 0 < n)
    (hinbox : s.inbox = .bus .read 0 m 0 :: xs) (k : Nat) :
    core.run (k + 1) s = core.run (k + 1) (chunkStaged s) := by
  have announced : 0 < s.chunkRemaining := by have := h.chunk; omega
  have staged : (chunkStaged s).readPointer < (chunkStaged s).writtenLength := by
    change 0 < (resultWords s.dev s.chunkRemaining).length
    rw [resultWords_length]
    omega
  have empty : s.readPointer = s.writtenLength := by rw [h.pointer, State.writtenLength, h.empty]; rfl
  have same : pioRead { s with inbox := xs } = pioRead { chunkStaged s with inbox := xs } := by
    rw [pioRead_of_empty (s := { s with inbox := xs }) empty announced, stage_eq_chunkStaged,
      pioRead_of_staged (s := { chunkStaged s with inbox := xs }) staged]
    rfl
  exact ((run_wideRead hm h.seq hinbox k).trans (congrArg (core.run k) same)).trans
    (run_wideRead (s := chunkStaged s) hm h.seq hinbox k).symm

/-- The words of a result whose first chunk is a whole one (R59, R149). -/
theorem resultWords_add (d : Device) (n : Nat) :
    resultWords d (63488 + n) = resultWords d 63488 ++ resultWords (d.advance 63488) n := by
  rw [← packWords_nextBytes, ← packWords_nextBytes, ← packWords_nextBytes, Device.nextBytes_add,
    packWords_append _ _ (by rw [Device.nextBytes_length])]

/-- What staging a chunk of `c` bytes adds to the trace: its device reads, then the interrupt (R141, R144). -/
def stagingTrace (c : Nat) : List Output := (sectorSizes c).map .readData ++ [.irq Config.irqVector]

theorem busWords_stagingTrace (c : Nat) : busWords (stagingTrace c) = [] := by
  rw [stagingTrace, busWords_append, busWords_map_readData]
  rfl

theorem irqCount_stagingTrace (c : Nat) : irqCount (stagingTrace c) = 1 := by
  simp [stagingTrace, irqCount, List.countP_map, Function.comp_def, Output.isIrq]

theorem irqCount_busReads (ws : List Word) : irqCount (busReads ws) = 0 := by
  rw [← irqCount_effects, effects_busReads]
  rfl

/-- Clearing DRQ twice is clearing it once (R26). -/
theorem clearDrq_idem (p : Params) (st : Byte) : clearDrq p (st &&& ~~~p.stDrq) = st &&& ~~~p.stDrq := by
  rw [clearDrq, BitVec.and_assoc, BitVec.and_self]

/-- The reads of the last chunk deliver it and complete the command: one interrupt when it is staged and one at
the end (R144, R146). -/
theorem run_lastChunk {n : Nat} {m : DWord} {s : State} {xs : List Input}
    (hm : laneDecode s.params.laneDecode m = (true, true)) (h : PioUnderWay n s) (hn : 0 < n) (hmax : n ≤ 63488)
    (hinbox : s.inbox = List.replicate ((n + 1) / 2) (.bus .read 0 m 0) ++ xs) :
    ∃ os, core.run ((n + 1) / 2) s = .next { pioDelivered n s with inbox := xs, out := s.out ++ os } ∧
      busWords os = (resultWords s.dev n).map wideLane ∧ irqCount os = 2 := by
  have chunk : s.chunkRemaining = n := h.chunk.trans (Nat.min_eq_left hmax)
  have total : s.totalRemaining = 0 := by rw [h.total]; omega
  have length : (chunkStaged s).rb.length = (n + 1) / 2 := by
    rw [← chunk]
    exact resultWords_length s.dev s.chunkRemaining
  have noneLeft : (chunkStaged s).chunkRemaining = 0 := by
    change min s.totalRemaining 63488 = 0
    omega
  obtain ⟨j, reads⟩ : ∃ j, (n + 1) / 2 = j + 1 := Nat.exists_eq_add_one.mpr (by omega)
  have inbox : s.inbox = .bus .read 0 m 0 :: (List.replicate j (.bus .read 0 m 0) ++ xs) := by
    rw [hinbox, reads]
    rfl
  obtain ⟨os, run, irq, returned⟩ := run_buffer_of_all (s := chunkStaged s) (xs := xs) hm h.seq rfl (by omega) noneLeft
    (by rw [length]; exact hinbox)
  refine ⟨stagingTrace n ++ os, ?run, ?words, ?irqs⟩
  case run =>
    rw [reads, run_from_staged hm h hn inbox, ← reads, ← length, run]
    simp only [chunkStaged, pioDelivered, refilled, total, chunk, hmax, if_true, ne_eq, not_true, if_false, clearDrq_idem,
      stagingTrace, List.append_assoc]
    rfl
  case words => rw [busWords_append, busWords_stagingTrace, returned, ← chunk]; rfl
  case irqs => rw [irqCount_append, irqCount_stagingTrace, ← irqCount_effects os, irq]; rfl

/-- The block after a chunk has been staged and all its words returned (R145). -/
def chunkReturned (s : State) : State :=
  { chunkStaged s with
    rb := [], readPointer := 0
    out := s.out ++ (stagingTrace s.chunkRemaining ++ busReads (resultWords s.dev s.chunkRemaining)) }

/-- A chunk before the last is a whole one (R143). -/
theorem PioUnderWay.counts_of_more {n : Nat} {s : State} (h : PioUnderWay (63488 + n) s) :
    s.chunkRemaining = 63488 ∧ s.totalRemaining = n := by
  have chunk := h.chunk
  have total := h.total
  omega

/-- The reads of an earlier chunk return its words, and the rest of the transfer is under way (R145). -/
theorem PioUnderWay.next {n : Nat} {s : State} (h : PioUnderWay (63488 + n) s) (xs : List Input) :
    PioUnderWay n { chunkReturned s with inbox := xs } := by
  obtain ⟨-, total⟩ := h.counts_of_more
  exact ⟨h.seq, rfl, rfl, congrArg (min · 63488) total, congrArg (fun r => r - min r 63488) total⟩

/-- The reads of an earlier chunk (R145). -/
theorem run_earlierChunk {n : Nat} {m : DWord} {s : State} {xs : List Input}
    (hm : laneDecode s.params.laneDecode m = (true, true)) (h : PioUnderWay (63488 + n) s) (hn : 0 < n)
    (hinbox : s.inbox = List.replicate 31744 (.bus .read 0 m 0) ++ xs) (k : Nat) :
    core.run (31744 + k) s = core.run k { chunkReturned s with inbox := xs } := by
  obtain ⟨chunk, total⟩ := h.counts_of_more
  have length : (chunkStaged s).rb.length = 31744 := by
    change (resultWords s.dev s.chunkRemaining).length = 31744
    rw [resultWords_length, chunk]
  have more : (chunkStaged s).chunkRemaining ≠ 0 := by
    change min s.totalRemaining 63488 ≠ 0
    omega
  have inbox : s.inbox = .bus .read 0 m 0 :: (List.replicate 31743 (.bus .read 0 m 0) ++ xs) := by
    rw [hinbox, List.replicate_succ, List.cons_append]
  have staged := run_from_staged hm h (by omega) inbox (31743 + k)
  rw [show 31743 + k + 1 = 31744 + k by omega] at staged
  rw [staged]
  have run := run_buffer_of_chunk (s := chunkStaged s) (xs := xs) hm h.seq rfl (by omega) more
    (by rw [length]; exact hinbox) k
  rw [length] at run
  rw [run, chunkReturned, ← List.append_assoc]
  rfl

/-- What is delivered after an earlier chunk makes up the whole result (R149). -/
theorem pioDelivered_chunkReturned {n : Nat} {s : State} (h : PioUnderWay (63488 + n) s) (hn : 0 < n) :
    pioDelivered n (chunkReturned s) = { pioDelivered (63488 + n) s with out := (chunkReturned s).out } := by
  obtain ⟨chunk, total⟩ := h.counts_of_more
  have moreThanOne : ¬63488 + n ≤ 63488 := by omega
  simp only [pioDelivered, chunkReturned, chunkStaged, refilled, chunk, total, hn.ne', moreThanOne, ne_eq, not_false_eq_true,
    if_true, if_false, ite_self, Device.advance_advance]

/-- As many reads as the result has words deliver it, with one interrupt per chunk and one at the end (R149). -/
theorem run_pioReads {n : Nat} {m : DWord} {s : State} {xs : List Input}
    (hm : laneDecode s.params.laneDecode m = (true, true)) (h : PioUnderWay n s) (hn : 0 < n)
    (hinbox : s.inbox = List.replicate ((n + 1) / 2) (.bus .read 0 m 0) ++ xs) :
    ∃ os, core.run ((n + 1) / 2) s = .next { pioDelivered n s with inbox := xs, out := s.out ++ os } ∧
      busWords os = (resultWords s.dev n).map wideLane ∧ irqCount os = (n + 63487) / 63488 + 1 := by
  induction n using Nat.strongRecOn generalizing s with
  | ind n ih =>
    by_cases last : n ≤ 63488
    · have oneChunk : (n + 63487) / 63488 + 1 = 2 := by omega
      rw [oneChunk]
      exact run_lastChunk hm h hn last hinbox
    · obtain ⟨r, rfl⟩ : ∃ r, n = 63488 + r := ⟨n - 63488, by omega⟩
      have hr : 0 < r := by omega
      have reads : (63488 + r + 1) / 2 = 31744 + (r + 1) / 2 := by omega
      have chunks : (63488 + r + 63487) / 63488 + 1 = 1 + ((r + 63487) / 63488 + 1) := by omega
      obtain ⟨chunk, -⟩ := h.counts_of_more
      obtain ⟨ys, hys⟩ : ∃ ys, ys = List.replicate ((r + 1) / 2) (.bus .read 0 m 0) ++ xs := ⟨_, rfl⟩
      obtain ⟨os, run, words, irqs⟩ := ih r (by omega) (s := { chunkReturned s with inbox := ys }) hm
        (h.next ys) hr hys
      refine ⟨stagingTrace 63488 ++ busReads (resultWords s.dev 63488) ++ os, ?run, ?words, ?irqs⟩
      case run =>
        have inbox : s.inbox = List.replicate 31744 (.bus .read 0 m 0) ++ ys := by
          rw [hinbox, reads, List.replicate_add, List.append_assoc, hys]
        have delivered := pioDelivered_chunkReturned h hr
        rw [reads, run_earlierChunk hm h hr inbox, run]
        change Host.Outcome.next
          { pioDelivered r (chunkReturned s) with inbox := xs, out := (chunkReturned s).out ++ os } = _
        rw [delivered, ← List.append_assoc, ← chunk]
        rfl
      case words =>
        rw [busWords_append, busWords_append, busWords_stagingTrace, busWords_busReads, words, resultWords_add,
          List.map_append, ← chunk]
        rfl
      case irqs => rw [irqCount_append, irqCount_append, irqCount_stagingTrace, irqCount_busReads, irqs, chunks]

/-- Settles O40: the first read leaves DATA_WAIT for DATA_PIO, where the reads deliver the transfer chunk by chunk. -/
theorem pioDrainDeliversTheWholeResult : Obligations.PioDrainDeliversTheWholeResult := by
  intro s m n xs hm hn hseq hrb hpointer hchunk htotal hinbox
  obtain ⟨j, reads⟩ : ∃ j, (n + 1) / 2 = j + 1 := Nat.exists_eq_add_one.mpr (by omega)
  have inbox : s.inbox = .bus .read 0 m 0 :: (List.replicate j (.bus .read 0 m 0) ++ xs) := by
    rw [hinbox, reads]
    rfl
  obtain ⟨os, run, returned, irqs⟩ :=
    run_pioReads (s := { s with seq := .dataPio }) hm ⟨rfl, hrb, hpointer, hchunk, htotal⟩ hn hinbox
  rw [reads] at run ⊢
  refine ⟨_, os, (run_from_dataWait hm hseq inbox j).trans run, rfl, returned, irqs, ?_⟩
  rw [pioDelivered, hrb, hpointer]

end Sys2Proof.Machine
end

section
/-! SUPPORT. The byte writes and the empty access as instructions, and a byte read at the bus: its word is that of the
register its offset and half name (R72, R73, R100 to R104). -/

namespace Sys2Proof.Machine

/-- Settles O11, register by register. -/
theorem byteWritesStoreOneRegister : Obligations.ByteWritesStoreOneRegister := fun s v =>
  ⟨@exec_writeInstr .dl nofun v s, @exec_writeInstr .err nofun v s, @exec_writeInstr .ir nofun v s,
    @exec_writeInstr .sc nofun v s, @exec_writeInstr .bcl nofun v s, @exec_writeInstr .bch nofun v s,
    @exec_writeInstr .ds nofun v s⟩

/-- The value of a register is the entry of its number (R10, R20). -/
theorem registers_getD (s : State) (r : TaskReg) :
    [s.dl, s.err, s.ir, s.sc, s.bcl, s.bch, s.ds, s.st].getD r.number 0 = s.reg r := by
  cases r <;> rfl

/-- The lane of a half begins at bit 16 or at bit 0 (R73). -/
theorem byteLane_eq_shiftLeft (hi : Bool) (b : Byte) : byteLane hi b = b.setWidth 32 <<< (if hi then 16 else 0) := by
  cases hi with
  | false => exact (BitVec.shiftLeft_zero _).symm
  | true => rfl

/-- Settles O12: the offset and the half name a register, and the step is the byte read of it. -/
theorem busByteReadSelectsByOffsetAndHalf : Obligations.BusByteReadSelectsByOffsetAndHalf := by
  intro s o m v hi xs ho hm hinbox
  obtain ⟨r, rfl, rfl, number⟩ := exists_register ho hi
  rw [← number, registers_getD, ← byteLane_eq_shiftLeft]
  exact (stepRunsTheDecodedInstruction s _ xs _ hinbox (decode_byteRead r hm v)).trans
    (exec_readInstr r { s with inbox := xs })

/-- An empty read returns the bus word 0 and changes nothing else (R104). -/
theorem exec_emptyRead (oo : BitVec 2) (s : State) :
    exec (.nopAccess .read oo) s = .next { s with out := s.out ++ [.busRead 0] } := rfl

/-- An empty write does nothing (R104). -/
theorem exec_emptyWrite (oo : BitVec 2) (s : State) : exec (.nopAccess .write oo) s = .next s := rfl

/-- Settles O14, by the direction of the access. -/
theorem emptyAccessDoesNothing : Obligations.EmptyAccessDoesNothing := fun s oo =>
  ⟨exec_emptyRead oo s, exec_emptyWrite oo s⟩

end Sys2Proof.Machine
end

section
/-! SUPPORT. The task-file commands as instructions: each runs the command of its row, whose effect R111 to R113 give in
full, and any other byte changes nothing (R114). -/

namespace Sys2Proof.Machine

/-- Settles O15: the row of PACKET runs the command of R111. -/
theorem packetCommandStartsAPacket : Obligations.PacketCommandStartsAPacket := fun s =>
  congrArg Host.Outcome.next (packetCommand_eq s)

/-- Settles O16: the row of IDENTIFY PACKET DEVICE runs the command of R112, whose block has a word for each of the
IDENTIFY_LEN indices. -/
theorem identifyStagesTheIdentifyBlock : Obligations.IdentifyStagesTheIdentifyBlock := fun s =>
  congrArg Host.Outcome.next (identifyCommand_eq s)

/-- Settles O17: the row of SET FEATURES runs the command of R113. -/
theorem setFeaturesClearsStatus : Obligations.SetFeaturesClearsStatus := fun s =>
  congrArg Host.Outcome.next (setFeaturesCommand_eq s)

/-- The row of the other command bytes does nothing, whatever byte it holds (R114). -/
theorem exec_cmdUnrecognised (c : Byte) (s : State) : exec (.cmdUnrecognised c) s = .next s := rfl

/-- A write to register 7 runs the command decoder on its byte (R103). -/
theorem exec_wrCmd (c : Byte) (s : State) : exec (.wrCmd c) s = .next (onCommandWrite c s) := rfl

/-- Settles O18: the command row does nothing, and the command decoder makes nothing of a byte that names no command. -/
theorem unrecognisedCommandChangesNothing : Obligations.UnrecognisedCommandChangesNothing := by
  intro s c hpacket hidentify hfeatures
  refine ⟨exec_cmdUnrecognised c s, ?write⟩
  case write => rw [exec_wrCmd, onCommandWrite_other hpacket hidentify hfeatures]

end Sys2Proof.Machine
end

section
/-! SUPPORT. The packet assembler word by word and packet by packet: the words before the sixth and the words nobody expects
(R121, R134), the dispatch that the device rejects (R131), and the side effect of the operation codes other than MODE
SELECT (R125 to R128, R130). -/

namespace Sys2Proof.Machine

/-! ### Single words -/

/-- A wide write runs the packet assembler on its word, whatever the offset (R71, R120). -/
theorem exec_wrWide (oo : BitVec 2) (w : Word) (s : State) : exec (.wrWide oo w) s = .next (wideWrite w s) := rfl

/-- A wide write where no words are expected is ignored (R134). -/
theorem wideWrite_unexpected {s : State} (hbuild : s.seq ≠ .packetBuild) (hwait : s.seq ≠ .modeParamWait) (w : Word) :
    wideWrite w s = s := by
  obtain ⟨h, -, -⟩ | ⟨h, -, -⟩ | ⟨h, -, -⟩ | ⟨h, -, -⟩ | ⟨-, -, ignored⟩ := wideWrite_cases w s
  · exact absurd h hbuild
  · exact absurd h hbuild
  · exact absurd h hwait
  · exact absurd h hwait
  · exact ignored

/-- Settles O32: the word is neither a packet word nor a parameter word. -/
theorem unexpectedWideWriteIsIgnored : Obligations.UnexpectedWideWriteIsIgnored := by
  intro s oo w hbuild hwait
  rw [exec_wrWide, wideWrite_unexpected hbuild hwait]

/-- A checked write inside a vector is the unchecked one. -/
theorem setIfInBounds_eq_set {α : Type} {n i : Nat} {xs : Vector α n} (h : i < n) (x : α) :
    xs.setIfInBounds i x = xs.set i x h := by
  ext j hj
  rw [Vector.getElem_setIfInBounds, Vector.getElem_set]

/-- Settles O20: the word is not the sixth, and its place is one of the packet's six. -/
theorem packetWordsOneToFiveAreAppended : Obligations.PacketWordsOneToFiveAreAppended := by
  intro s oo w hcount hseq
  rw [exec_wrWide, wideWrite_packetWord_more hseq (by omega), setIfInBounds_eq_set (by omega)]

/-- The sixth word dispatches the five words so far and itself (R121). -/
theorem wideWrite_sixth_of_pkt {s : State} {w0 w1 w2 w3 w4 x : Word} (hseq : s.seq = .packetBuild)
    (hcount : s.pktCount = 5) (hpkt : s.pkt = #v[w0, w1, w2, w3, w4, x]) (w5 : Word) :
    wideWrite w5 s = dispatch { s with pkt := #v[w0, w1, w2, w3, w4, w5], pktCount := 6 } := by
  rw [wideWrite_sixth hseq hcount, hpkt]
  rfl

/-! ### A rejected dispatch -/

/-- A packet that the device rejects (R122, R131). -/
theorem dispatch_of_error {s : State} {c : Cdb} (hc : cdbOfPacket s.pkt = c) (h : (s.dev.exec c).1 = .error) :
    dispatch s = rejected c s := by
  subst hc
  simp only [dispatch, h]
  rfl

/-- Settles O21: the sixth word dispatches the six words, and the device rejects them. -/
theorem sixthWordRejectedByTheDevice : Obligations.SixthWordRejectedByTheDevice := by
  intro s oo w0 w1 w2 w3 w4 w5 x c hseq hcount hpkt hc hanswer
  have assembled : cdbOfPacket ({ s with pkt := #v[w0, w1, w2, w3, w4, w5], pktCount := 6 } : State).pkt = c := hc.symm
  rw [exec_wrWide, wideWrite_sixth_of_pkt hseq hcount hpkt, dispatch_of_error assembled hanswer]
  rfl

/-- A whole packet that the device rejects (R122, R131). -/
theorem sendPacket_of_error {s : State} {c : Cdb} (h : (s.dev.exec c).1 = .error) :
    sendPacket c s = rejected c (packetSent c s) := by
  have hc : cdbOfPacket ({ packetSent c s with pktCount := 6 } : State).pkt = c := cdbOfPacket_packetSent c s
  rw [sendPacket_eq_dispatch, dispatch_of_error hc h]
  rfl

/-- Settles O24: each row sends its packet, and a rejected packet never reaches the side effect. -/
theorem rejectedPacketHasNoSideEffect : Obligations.RejectedPacketHasNoSideEffect := by
  rintro s ⟨op, tail⟩ hanswer
  have row {i : Instr} (encoded : encode s.params i = .cdb ⟨op, tail⟩) :
      exec i s = .next (rejected ⟨op, tail⟩ (packetSent ⟨op, tail⟩ s)) := by
    rw [exec_packetRow encoded, sendPacket_of_error hanswer]
  refine ⟨?testUnitReady, ?play, ?modeSelect, ?setCdromSpeed, ?generic⟩
  case generic => exact fun _ _ _ _ => row rfl
  all_goals
    rintro rfl
    exact row rfl

/-! ### The side effect of an accepted packet -/

/-- TEST UNIT READY / BUS RESET and SET CD-ROM SPEED force the status to 0 (R126, R127). -/
theorem opcodeSideEffect_statusZero {c : Cdb} (hop : c.op = 0x00 ∨ c.op = 0xBB) (s : State) :
    opcodeSideEffect c s = { s with st := 0x00 } := by
  obtain hready | hspeed := hop
  · rw [opcodeSideEffect, hready]
    rfl
  · rw [opcodeSideEffect, hspeed]
    rfl

/-- PLAY forces BUSY and arms its timer for one sector (R128). -/
theorem opcodeSideEffect_play {c : Cdb} (hop : c.op = 0x45) (s : State) :
    opcodeSideEffect c s = { s with st := s.params.stBusy, playTimer := .pending Config.cyclesPerSector } := by
  rw [opcodeSideEffect, hop]
  rfl

/-- Any other operation code has no side effect (R130). -/
theorem opcodeSideEffect_other {c : Cdb} (hready : c.op ≠ 0x00) (hplay : c.op ≠ 0x45) (hselect : c.op ≠ 0x55)
    (hspeed : c.op ≠ 0xBB) (s : State) : opcodeSideEffect c s = s :=
  (if_neg hready).trans ((if_neg hplay).trans ((if_neg hselect).trans (if_neg hspeed)))

/-- Settles O22: the sixth word dispatches the six words, and the operation code selects the side effect. -/
theorem sixthWordAcceptedByTheDevice : Obligations.SixthWordAcceptedByTheDevice := by
  intro s oo w0 w1 w2 w3 w4 w5 x c n t hseq hcount hpkt hc hanswer ht hselect
  have assembled : cdbOfPacket ({ s with pkt := #v[w0, w1, w2, w3, w4, w5], pktCount := 6 } : State).pkt = c := hc.symm
  have accepted : exec (.wrWide oo w5) s = .next (opcodeSideEffect c t) := by
    rw [exec_wrWide, wideWrite_sixth_of_pkt hseq hcount hpkt, dispatch_of_count assembled hanswer, ht]
    rfl
  have params : t.params = s.params := by rw [ht]; rfl
  rw [accepted]
  split_ifs with hzero hplay
  · rw [opcodeSideEffect_statusZero hzero]
  · rw [opcodeSideEffect_play hplay, params]
  · obtain ⟨hready, hspeed⟩ := not_or.mp hzero
    rw [opcodeSideEffect_other hready hplay hselect hspeed]

/-- A packet row whose packet the device accepts (R122 to R125). -/
theorem exec_packetRow_of_count {p : Params} {i : Instr} {c : Cdb} {n : Nat} {s : State} (encoded : encode p i = .cdb c)
    (h : (s.dev.exec c).1 = .count n) :
    exec i s = .next (opcodeSideEffect c (dispatched n c (packetSent c s))) := by
  rw [exec_packetRow encoded, sendPacket_of_count h]

/-- Settles O25: both operation codes select the same side effect. -/
theorem testUnitReadyAndSpeedForceStatusZero : Obligations.TestUnitReadyAndSpeedForceStatusZero := by
  intro s t n m
  constructor
  · intro hanswer
    rw [exec_packetRow_of_count (p := s.params) rfl hanswer, opcodeSideEffect_statusZero (.inl rfl)]
  · intro hanswer
    rw [exec_packetRow_of_count (p := s.params) rfl hanswer, opcodeSideEffect_statusZero (.inr rfl)]

/-- Settles O26: the operation code selects the side effect of PLAY. -/
theorem playSetsBusyAndArmsItsTimer : Obligations.PlaySetsBusyAndArmsItsTimer := by
  intro s t n hanswer
  rw [exec_packetRow_of_count (p := s.params) rfl hanswer, opcodeSideEffect_play rfl]
  rfl

/-- Settles O28: none of the four operation codes with a side effect is selected. -/
theorem genericPacketIsOnlyDispatched : Obligations.GenericPacketIsOnlyDispatched := by
  intro s c n hready hplay hselect hspeed hanswer
  rw [exec_packetRow_of_count (p := s.params) rfl hanswer, opcodeSideEffect_other hready hplay hselect hspeed]

end Sys2Proof.Machine
end

section
/-! SUPPORT. A wide read by what it finds: the sequencer state (R140), nothing staged and nothing announced (R147), a staged
word (R145, R146), a chunk of one word (R148); and the refill on its own (R143). -/

namespace Sys2Proof.Machine

/-- Settles O33: `Refill()` is the block of `refilled`, and the chunk is what it takes from the total. -/
theorem refillConservesTheCount : Obligations.RefillConservesTheCount := by
  intro s
  refine ⟨rfl, ?conserved, Nat.min_le_right _ _⟩
  case conserved => exact Nat.add_sub_of_le (Nat.min_le_left _ _)

/-! ### The sequencer state -/

/-- A wide read runs the PIO engine, whatever the offset (R71, R140). -/
theorem exec_rdWide (oo : BitVec 2) (s : State) : exec (.rdWide oo) s = wideRead s := rfl

/-- While words are collected a wide read returns 0 (R140). -/
theorem wideRead_collecting {s : State} (h : s.seq = .packetBuild ∨ s.seq = .modeParamWait) :
    wideRead s = .next (returnBus 0 s) := by
  obtain hseq | hseq := h <;> rw [wideRead, hseq]

/-- Outside DATA_DMA a wide read answers a next state (R140). -/
theorem exists_wideRead_next {s : State} (hdma : s.seq ≠ .dataDma) : ∃ t, wideRead s = .next t := by
  by_cases collecting : s.seq = .packetBuild ∨ s.seq = .modeParamWait
  · exact ⟨_, wideRead_collecting collecting⟩
  · obtain ⟨hbuild, hwait⟩ := not_or.mp collecting
    exact ⟨_, wideRead_eq_pioRead hbuild hwait hdma⟩

/-- Settles O34, by the sequencer state. -/
theorem wideReadFollowsTheSequencer : Obligations.WideReadFollowsTheSequencer := by
  intro s oo
  simp only [exec_rdWide]
  refine ⟨?collecting, ?duringDma, ?dataWait, ?pio, exists_wideRead_next⟩
  case collecting => exact wideRead_collecting
  case duringDma =>
    intro hseq
    rw [wideRead, hseq]
  case dataWait =>
    intro hseq
    rw [wideRead, hseq]
    rfl
  case pio => rintro (hseq | hseq | hseq) <;> rw [wideRead, hseq]

/-! ### Overrun and pop -/

/-- With nothing staged and nothing announced `PioRead()` only returns 0 (R147). -/
theorem pioRead_overrun {s : State} (hempty : s.readPointer = s.writtenLength) (hchunk : s.chunkRemaining = 0) :
    pioRead s = returnBus 0 s := by
  have notAnnounced : ¬(s.readPointer = s.writtenLength ∧ 0 < s.chunkRemaining) := fun h => h.right.ne' hchunk
  rw [pioRead, stageIfEmpty, if_neg notAnnounced, popOrZero, if_neg hempty.ge.not_gt]

/-- Settles O35: on the PIO path nothing is staged and nothing is popped. -/
theorem overrunReadReturnsZero : Obligations.OverrunReadReturnsZero := by
  intro s oo hbuild hwait hdma hempty hchunk
  rw [exec_rdWide, wideRead_eq_pioRead hbuild hwait hdma, pioRead_overrun (s := s.onPioPath) hempty hchunk]
  rfl

/-- Settles O36: on the PIO path the staged word is popped, by what the pop leaves. -/
theorem stagedWordIsPoppedInOrder : Obligations.StagedWordIsPoppedInOrder := by
  intro s oo w hbuild hwait hdma hword
  obtain ⟨staged, -⟩ := List.getElem?_eq_some_iff.mp hword
  have word : s.onPioPath.rb.getD s.onPioPath.readPointer 0 = w := by
    rw [List.getD_eq_getElem?_getD]
    exact congrArg (Option.getD · 0) hword
  have read : exec (.rdWide oo) s = .next (popOrZero s.onPioPath) := by
    rw [exec_rdWide, wideRead_eq_pioRead hbuild hwait hdma, pioRead_of_staged (s := s.onPioPath) staged]
  rw [read]
  refine ⟨?more, ?lastOfChunk, ?lastOfAll⟩
  case more =>
    intro more
    rw [popOrZero_of_more (s := s.onPioPath) more, word]
    rfl
  case lastOfChunk =>
    intro last hchunk
    rw [popOrZero_last_of_chunk (s := s.onPioPath) last hchunk, word]
    rfl
  case lastOfAll =>
    intro last hchunk
    rw [popOrZero_last_of_all (s := s.onPioPath) last hchunk, word]
    exact ⟨_, [.irq Config.irqVector, .busRead (wideLane w)], rfl, rfl, rfl, rfl, rfl⟩

/-! ### A chunk of one word -/

/-- A chunk of one or two bytes is read from the device at once (R141). -/
theorem sectorSizes_oneWord {c : Nat} (hpos : 1 ≤ c) (hmax : c ≤ 2) : sectorSizes c = [c] := by
  have short : c < sectorSize := Nat.lt_of_le_of_lt hmax (by decide)
  rw [sectorSizes_small short, if_neg (Nat.ne_of_gt hpos)]

/-- Settles O38: the chunk is staged as one word, whose pop leaves nothing announced. -/
theorem oneWordTransferEndsInOneRead : Obligations.OneWordTransferEndsInOneRead := by
  intro s oo hbuild hwait hdma hempty hpos hmax htotal
  have last : (chunkStaged s.onPioPath).readPointer + 1 = (chunkStaged s.onPioPath).writtenLength := by
    change 0 + 1 = (resultWords s.dev s.chunkRemaining).length
    rw [resultWords_length]
    omega
  have noneLeft : (chunkStaged s.onPioPath).chunkRemaining = 0 := min_maxTransferSize_eq_zero.mpr htotal
  have read : exec (.rdWide oo) s = .next (popOrZero (chunkStaged s.onPioPath)) := by
    rw [exec_rdWide, wideRead_eq_pioRead hbuild hwait hdma, pioRead_of_empty (s := s.onPioPath) hempty hpos,
      stage_eq_chunkStaged]
  have word : (chunkStaged s.onPioPath).rb.getD (chunkStaged s.onPioPath).readPointer 0 =
      resultWord s.dev s.chunkRemaining 0 := resultWords_getD_zero s.dev hpos
  rw [read, popOrZero_last_of_all last noneLeft, word]
  refine ⟨_, stagingTrace s.chunkRemaining ++
    [.irq Config.irqVector, .busRead (wideLane (resultWord s.dev s.chunkRemaining 0))],
    rfl, List.append_assoc .., ?effects, ?words, ?state⟩
  case effects => rw [stagingTrace, sectorSizes_oneWord hpos hmax]; rfl
  case words => rw [busWords_append, busWords_stagingTrace]; rfl
  case state =>
    simp only [chunkStaged, State.onPioPath, refilled, htotal, ne_eq, not_true, if_false, clearDrq_idem]

end Sys2Proof.Machine
end

section
/-! SUPPORT. Every instruction outside the refused conditions answers a next state (R170). -/

namespace Sys2Proof.Machine

/-- A wide read answers a next state everywhere but in DATA_DMA (R140). -/
theorem exists_wideRead_next_iff {s : State} : (∃ t, wideRead s = .next t) ↔ s.seq ≠ .dataDma := by
  refine ⟨?_, exists_wideRead_next⟩
  rintro ⟨t, hnext⟩ hseq
  rw [wideRead, hseq] at hnext
  cases hnext

/-- A burst request is taken outside DATA_PIO and to an aligned address only (R155). -/
theorem exists_burstRequest_next_iff {a : DWord} {s : State} :
    (∃ t, burstRequest a s = .next t) ↔ s.seq ≠ .dataPio ∧ a.toNat % 4 = 0 := by
  constructor
  · rintro ⟨t, hnext⟩
    obtain ⟨hseq, haligned, -⟩ := burstRequest_next hnext
    exact ⟨hseq, haligned⟩
  · rintro ⟨hseq, haligned⟩
    exact ⟨_, (if_neg hseq).trans (if_neg (not_not_intro haligned))⟩

/-- The DMA timer fires when it is not idle (R157, R162). -/
theorem exists_dmaTimerFire_next_iff {s : State} : (∃ t, dmaTimerFire s = .next t) ↔ s.dmaTimer ≠ .idle := by
  cases htimer : s.dmaTimer <;> simp [dmaTimerFire, htimer]

/-- The PLAY timer fires when it is not idle (R161, R162). -/
theorem exists_playTimerFire_next_iff {s : State} : (∃ t, playTimerFire s = .next t) ↔ s.playTimer ≠ .idle := by
  cases htimer : s.playTimer <;> simp [playTimerFire, htimer]

/-- Settles O44: four instructions answer a next state outside a condition of their own, and every other one does always. -/
theorem onlyTheListedEventsAreRefused : Obligations.OnlyTheListedEventsAreRefused := by
  intro i s
  cases i with
  | rdWide oo => exact exists_wideRead_next_iff.trans (by simp)
  | dmaReq a => exact exists_burstRequest_next_iff.trans (by simp)
  | dmaFire => exact exists_dmaTimerFire_next_iff.trans (by simp)
  | playFire => exact exists_playTimerFire_next_iff.trans (by simp)
  | nopAccess rw oo => cases rw with
    | read => exact iff_of_true ⟨_, exec_emptyRead oo s⟩ (by simp)
    | write => exact iff_of_true ⟨_, exec_emptyWrite oo s⟩ (by simp)
  | _ => exact iff_of_true ⟨_, rfl⟩ (by simp)

end Sys2Proof.Machine
end

section
/-! SUPPORT. How many interrupts each operation can raise (R176, R179): at most one for each, but for a wide read, whose
staging and final completion raise one each (R148). -/

namespace Sys2Proof.Machine

/-- From `s` to `t` the trace grows, by at most `n` interrupts (R42, R179). -/
def RaisesAtMost (n : Nat) (s t : State) : Prop := ∃ os, t.out = s.out ++ os ∧ irqCount os ≤ n

theorem RaisesAtMost.of_out_eq {n : Nat} {s t : State} (h : t.out = s.out) : RaisesAtMost n s t :=
  ⟨[], by rw [h, List.append_nil], Nat.zero_le n⟩

/-- An operation after an update that leaves the trace. -/
theorem RaisesAtMost.after_out_eq {n : Nat} {s t u : State} (k : RaisesAtMost n t u) (h : t.out = s.out) :
    RaisesAtMost n s u := by
  rwa [RaisesAtMost, ← h]

theorem RaisesAtMost.mono {m n : Nat} {s t : State} (h : RaisesAtMost m s t) (hmn : m ≤ n) : RaisesAtMost n s t := by
  obtain ⟨os, hout, hcount⟩ := h
  exact ⟨os, hout, hcount.trans hmn⟩

theorem RaisesAtMost.trans {m n : Nat} {s t u : State} (h : RaisesAtMost m s t) (k : RaisesAtMost n t u) :
    RaisesAtMost (m + n) s u := by
  obtain ⟨os, hout, hcount⟩ := h
  obtain ⟨ps, kout, kcount⟩ := k
  exact ⟨os ++ ps, by rw [kout, hout, List.append_assoc], by rw [irqCount_append]; exact Nat.add_le_add hcount kcount⟩

/-- An operation whose one addition to the trace is an interrupt (R176). -/
theorem RaisesAtMost.of_irq {s t : State} (h : t.out = s.out ++ [.irq Config.irqVector]) : RaisesAtMost 1 s t :=
  ⟨_, h, Nat.le_refl 1⟩

/-! ### The byte path, reset and the task-file commands -/

/-- A read that returns its word raises no interrupt (R53). -/
theorem returnBus_raisesAtMost (n : Nat) (v : DWord) (s : State) : RaisesAtMost n s (returnBus v s) :=
  ⟨_, rfl, Nat.zero_le n⟩

theorem setReg_out (s : State) (r : TaskReg) (v : Byte) : (s.setReg r v).out = s.out := by
  cases r <;> rfl

theorem resetEdge_out (v : DWord) (s : State) : (resetEdge v s).out = s.out := by
  rw [resetEdge_eq]
  split <;> rfl

theorem onCommandWrite_raisesAtMostOne (c : Byte) (s : State) : RaisesAtMost 1 s (onCommandWrite c s) := by
  obtain ⟨-, e⟩ | ⟨-, e⟩ | ⟨-, e⟩ | ⟨-, e⟩ := onCommandWrite_cases c s <;> rw [e]
  · exact .of_out_eq rfl
  · exact .of_irq rfl
  · exact .of_irq rfl
  · exact .of_out_eq rfl

/-! ### The packet assembler -/

theorem opcodeSideEffect_out (c : Cdb) (s : State) : (opcodeSideEffect c s).out = s.out := by
  obtain ⟨-, e⟩ | ⟨-, e⟩ | ⟨-, -, e⟩ | ⟨-, -, e⟩ | ⟨-, e⟩ | ⟨-, e⟩ := opcodeSideEffect_cases c s <;> rw [e]

/-- A successful dispatch raises the interrupt of its announcement (R124). -/
theorem dispatchSuccess_raisesAtMostOne (n : Nat) (c : Cdb) (s : State) : RaisesAtMost 1 s (dispatchSuccess n c s) := by
  refine .of_irq ?_
  rw [dispatchSuccess, opcodeSideEffect_out, announceTransfer_eq, seedTransfer_out]

/-- A dispatch raises the interrupt of an accepted packet, and none for a rejected one (R122, R131). -/
theorem dispatch_raisesAtMostOne (s : State) : RaisesAtMost 1 s (dispatch s) := by
  obtain ⟨-, e⟩ | ⟨n, -, e⟩ := dispatch_cases s <;> rw [e]
  · exact ⟨_, rfl, Nat.zero_le 1⟩
  · have called : RaisesAtMost 0 s
        { s with
          pktCount := 0
          dev := (s.dev.exec (cdbOfPacket s.pkt)).2
          out := s.out ++ [.exec (cdbOfPacket s.pkt)] } := ⟨_, rfl, Nat.le_refl 0⟩
    exact called.trans (dispatchSuccess_raisesAtMostOne n _ _)

theorem modeParamComplete_raisesAtMostOne (s : State) : RaisesAtMost 1 s (modeParamComplete s) := by
  rw [modeParamComplete_eq]
  exact ⟨_, rfl, Nat.le_refl 1⟩

theorem wideWrite_raisesAtMostOne (w : Word) (s : State) : RaisesAtMost 1 s (wideWrite w s) := by
  obtain ⟨-, -, e⟩ | ⟨-, -, e⟩ | ⟨-, -, e⟩ | ⟨-, -, e⟩ | ⟨-, -, e⟩ := wideWrite_cases w s <;> rw [e]
  · exact (dispatch_raisesAtMostOne _).after_out_eq rfl
  · exact .of_out_eq rfl
  · exact (modeParamComplete_raisesAtMostOne _).after_out_eq rfl
  · exact .of_out_eq rfl
  · exact .of_out_eq rfl

theorem sendPacket_raisesAtMostOne (c : Cdb) (s : State) : RaisesAtMost 1 s (sendPacket c s) := by
  rw [sendPacket_eq_dispatch]
  exact (dispatch_raisesAtMostOne _).after_out_eq rfl

/-! ### The PIO engine -/

/-- A staging raises the chunk-ready interrupt (R144). -/
theorem stageIfEmpty_raisesAtMostOne (s : State) : RaisesAtMost 1 s (stageIfEmpty s) := by
  unfold stageIfEmpty
  split
  · rw [stage_eq_chunkStaged]
    exact ⟨stagingTrace s.chunkRemaining, rfl, (irqCount_stagingTrace _).le⟩
  · exact .of_out_eq rfl

/-- A pop raises the interrupt of the final completion (R146). -/
theorem popWord_raisesAtMostOne (s : State) : RaisesAtMost 1 s (popWord s) := by
  obtain ⟨-, -, e⟩ | ⟨-, -, e⟩ | ⟨-, e⟩ := popWord_cases s <;> rw [e]
  · exact .of_irq rfl
  · exact .of_out_eq rfl
  · exact .of_out_eq rfl

theorem popOrZero_raisesAtMostOne (s : State) : RaisesAtMost 1 s (popOrZero s) := by
  obtain ⟨-, e⟩ | ⟨-, e⟩ := popOrZero_cases s <;> rw [e]
  · exact (popWord_raisesAtMostOne s).trans (returnBus_raisesAtMost 0 _ _)
  · exact returnBus_raisesAtMost 1 0 s

theorem pioRead_raisesAtMostTwo (s : State) : RaisesAtMost 2 s (pioRead s) :=
  (stageIfEmpty_raisesAtMostOne s).trans (popOrZero_raisesAtMostOne _)

theorem wideRead_raisesAtMostTwo {s t : State} (h : wideRead s = .next t) : RaisesAtMost 2 s t := by
  obtain ⟨-, rfl⟩ | ⟨-, rfl⟩ | ⟨-, rfl⟩ := wideRead_next h
  · exact returnBus_raisesAtMost 2 0 s
  · exact (pioRead_raisesAtMostTwo _).after_out_eq rfl
  · exact pioRead_raisesAtMostTwo s

/-! ### The DMA engine and every instruction -/

/-- A DMA fire raises the interrupt of its completion (R160). -/
theorem burst_raisesAtMostOne (s : State) : RaisesAtMost 1 s (burst s) := by
  refine ⟨_, (burst_out s).trans (List.append_assoc ..), ?_⟩
  rw [irqCount_append, irqCount_burstTrace, Nat.zero_add]
  split
  · exact Nat.le_refl 1
  · exact Nat.zero_le 1

/-- Of the operations an instruction runs, `PioRead()` alone can raise two interrupts (R148, R179). -/
theorem exec_raisesAtMostTwo {i : Instr} {s t : State} (h : exec i s = .next t) : RaisesAtMost 2 s t := by
  have one {t : State} (h : RaisesAtMost 1 s t) : RaisesAtMost 2 s t := h.mono (Nat.le_succ 1)
  cases runs_of_exec h with
  | wideRead oo _ hnext => exact wideRead_raisesAtMostTwo hnext
  | commandWrite c => exact one (onCommandWrite_raisesAtMostOne c s)
  | wideWrite oo w => exact one (wideWrite_raisesAtMostOne w s)
  | wholePacket _ c _ => exact one (sendPacket_raisesAtMostOne c s)
  | identify | setFeatures => exact one (.of_irq rfl)
  | dmaFire _ hnext =>
    obtain ⟨-, rfl⟩ := dmaTimerFire_next hnext
    exact one (burst_raisesAtMostOne s)
  | playFire _ hnext =>
    obtain ⟨-, rfl⟩ := playTimerFire_next hnext
    exact one (.of_irq rfl)
  | byteRead | emptyRead => exact returnBus_raisesAtMost 2 _ s
  | byteWrite r v _ => exact .of_out_eq (setReg_out s r v)
  | resetLine v => exact .of_out_eq (resetEdge_out v s)
  | burstRequest a _ hnext =>
    obtain ⟨-, -, rfl⟩ := burstRequest_next hnext
    exact .of_out_eq rfl
  | emptyWrite | packet | unrecognised => exact .of_out_eq rfl

/-- Settles O60: the bound of every instruction. -/
theorem atMostTwoInterruptsPerInstruction : Obligations.AtMostTwoInterruptsPerInstruction := fun _ _ _ =>
  exec_raisesAtMostTwo

end Sys2Proof.Machine
end

section
/-! SUPPORT. The events of the DMA engine and the timers as instructions: a burst request, a DMA fire with and without bytes
to move, and the end of PLAY (R155 to R163). -/

namespace Sys2Proof.Machine

/-! ### The burst request -/

/-- Settles O42: outside DATA_PIO an aligned request is taken, and `burstRequest_next` says what it leaves. -/
theorem burstRequestArmsTheTimer : Obligations.BurstRequestArmsTheTimer := by
  intro s a hseq haligned
  obtain ⟨t, hnext⟩ := exists_burstRequest_next_iff.mpr ⟨hseq, haligned⟩
  obtain ⟨-, -, rfl⟩ := burstRequest_next hnext
  exact hnext

/-! ### The DMA fire -/

/-- Settles O45: the chunk has moved, and what remains decides between the next chunk and the end of the transfer. -/
theorem dmaFireRefillsOrCompletes : Obligations.DmaFireRefillsOrCompletes := by
  intro s d htimer
  refine ⟨burst s, exec_dmaFire htimer, fun more => ?rearmed, fun last => ?completed⟩
  case rearmed => rw [burst_of_more more]; rfl
  case completed => rw [burst_of_last last, chunkMoved, last]; rfl

/-- With nothing announced and nothing remaining, moving the chunk only ends the timer and clears the byte count pair
(R163, R205). -/
theorem chunkMoved_of_nothing {s : State} (hchunk : s.chunkRemaining = 0) (htotal : s.totalRemaining = 0) :
    chunkMoved s = { s with dmaTimer := .idle, bcl := 0x00, bch := 0x00 } := by
  have memory : s.mem.storeResult s.dmaDest s.dev 0 = s.mem := rfl
  have trace : burstTrace (sectorCount 0) 0 s.dmaDest s.dev = [] := rfl
  have destination : s.dmaDest + BitVec.ofNat 32 (4 * ((0 + 3) / 4)) = s.dmaDest := BitVec.add_zero _
  simp only [chunkMoved, refilled, hchunk, htotal, memory, trace, destination, Device.advance_zero, List.append_nil,
    Nat.zero_min, Nat.zero_sub, Nat.zero_div, BitVec.ofNat_eq_ofNat]

/-- Settles O49: the fire is the completion of a transfer of which nothing is left to move. -/
theorem staleDmaFireEndsInDriveReady : Obligations.StaleDmaFireEndsInDriveReady := by
  intro s d htimer hchunk htotal
  rw [exec_dmaFire htimer, burst_of_last htotal, chunkMoved_of_nothing hchunk htotal]

/-! ### The end of PLAY -/

/-- Settles O50: a pending timer fires, and `playTimerFire_next` says what the fire leaves. -/
theorem playFireEndsBusy : Obligations.PlayFireEndsBusy := by
  intro s d htimer
  have pending : s.playTimer ≠ .idle := by simp [htimer]
  obtain ⟨t, hnext⟩ := exists_playTimerFire_next_iff.mpr pending
  obtain ⟨-, rfl⟩ := playTimerFire_next hnext
  exact hnext

end Sys2Proof.Machine
end

section
/-! SUPPORT. A step with no event waiting (R187). -/

namespace Sys2Proof.Machine

/-- An empty queue has no event to fetch. -/
theorem fetch_of_inbox_nil {s : State} (hinbox : s.inbox = []) : fetch s = none := by
  rw [fetch, hinbox]

/-- Settles O6: there is no event to fetch, and without one a step runs no instruction. -/
theorem idleBlockDoesNothing : Obligations.IdleBlockDoesNothing := by
  intro s hinbox
  rw [step, fetch_of_inbox_nil hinbox]

end Sys2Proof.Machine
end

section
/-! SUPPORT. The reset input: an edge, a held level and the return to zero, and reset applied twice (R200 to R204). -/

namespace Sys2Proof.Machine

/-! ### The three changes of the reset input -/

theorem exec_resetLine (v : DWord) (s : State) : exec (.resetLine v) s = .next (resetEdge v s) := by
  rfl

/-- An edge from zero to nonzero resets (R200). -/
theorem resetEdge_of_edge {s : State} {v : DWord} (hv : v ≠ 0) (hlow : s.resetPrev = false) :
    resetEdge v s = { softReset s with resetPrev := true } := by
  rw [resetEdge_eq, if_pos ⟨hv, hlow⟩]

/-- A nonzero value on an input that was nonzero before is no edge (R200). -/
theorem resetEdge_of_held {s : State} {v : DWord} (hv : v ≠ 0) (hhigh : s.resetPrev = true) : resetEdge v s = s := by
  have noEdge : ¬(v ≠ 0 ∧ s.resetPrev = false) := by simp [hhigh]
  have sampled : (v != 0) = s.resetPrev := by simpa [hhigh] using hv
  rw [resetEdge_eq, if_neg noEdge, sampled]

/-- The return to zero is sampled and does nothing else (R200). -/
theorem resetEdge_zero (s : State) : resetEdge 0 s = { s with resetPrev := false } := by
  have noEdge : ¬((0 : DWord) ≠ 0 ∧ s.resetPrev = false) := fun h => h.1 rfl
  rw [resetEdge_eq, if_neg noEdge]
  rfl

/-- Settles O8: each of the three changes is one case of the reset input, and `softReset_eq` lists what an edge writes. -/
theorem resetLineActsOnTheEdgeOnly : Obligations.ResetLineActsOnTheEdgeOnly := by
  intro s v
  rw [exec_resetLine]
  refine ⟨fun hv hlow => ?edge, fun hv hhigh => ?held, fun hv => ?zero⟩
  case edge => rw [resetEdge_of_edge hv hlow, softReset_eq]
  case held => rw [resetEdge_of_held hv hhigh]
  case zero => rw [hv, resetEdge_zero]

/-! ### The values after a reset -/

/-- Settles O7: the fields of the state at construction, and those of the state that an edge leaves. -/
theorem resetValuesAreThoseOfTheTable : Obligations.ResetValuesAreThoseOfTheTable := by
  refine ⟨by decide, fun s v hv hlow => ⟨{ softReset s with resetPrev := true }, ?runs, ?values⟩⟩
  case runs => rw [exec_resetLine, resetEdge_of_edge hv hlow]
  case values => simp [softReset_eq, State.writtenLength]

/-! ### Reset twice -/

/-- `Reset()` writes only constants (R201, R204). -/
theorem softReset_softReset (s : State) : softReset (softReset s) = softReset s := by
  simp only [softReset_eq]

/-- `Reset()` neither reads nor writes the last sample of the reset input (R201). -/
theorem softReset_resetPrev_update (s : State) (b : Bool) :
    softReset { s with resetPrev := b } = { softReset s with resetPrev := b } := by
  simp only [softReset_eq]

/-- After an edge and a return to zero, a second edge leaves the state of the first (R204). -/
theorem resetEdge_edge_zero_edge {s : State} {v w : DWord} (hv : v ≠ 0) (hw : w ≠ 0) (hlow : s.resetPrev = false) :
    resetEdge w (resetEdge 0 (resetEdge v s)) = resetEdge v s := by
  have returned : resetEdge 0 (resetEdge v s) = { softReset s with resetPrev := false } := by
    rw [resetEdge_zero, resetEdge_of_edge hv hlow]
  rw [returned, resetEdge_of_edge hw rfl, softReset_resetPrev_update, softReset_softReset, resetEdge_of_edge hv hlow]

/-- Settles O9: `Reset()` writes the same constants again, and the input goes low in between. -/
theorem resetTwiceIsResetOnce : Obligations.ResetTwiceIsResetOnce := by
  refine fun s v w => ⟨softReset_softReset s, fun hv hw hlow => ?twoEdges⟩
  case twoEdges =>
    refine ⟨resetEdge v s, resetEdge 0 (resetEdge v s), exec_resetLine v s, exec_resetLine 0 _, ?_⟩
    rw [exec_resetLine, resetEdge_edge_zero_edge hv hw hlow]

end Sys2Proof.Machine
end
